-- ==== Sys2Proof/Word.lean ====
section
/-! DEFINITION. The widths of the block's quantities (R8) and its small closed types: levels, directions, delay units, phases, status. -/

namespace Sys2Proof

/-- `DUR_W` = 8 bits: a duration, `cnt`, `ref`, `max_high`, a payload byte (R8). -/
abbrev Byte := BitVec 8

/-- `IDX_W` = 7 bits: an ordinal index, `widx`, `ridx`, `obs_len` (R8). -/
abbrev Index := BitVec 7

/-- A word of one of the four formats, right-aligned in two bytes: the widest format, OBS, has 15 bits (R70). -/
abbrev OpWord := BitVec 16

/-- The two digital values of the line (R14, R81: HIGH = 1, LOW = 0). -/
inductive Level where
  | low
  | high
deriving DecidableEq, Repr

/-- The direction of the line port (R24, R81: OUTPUT = 1, INPUT = 0). -/
inductive Direction where
  | input
  | output
deriving DecidableEq, Repr

/-- `dly_unit` (R24, R81): 0 = time unit, 1 = micro-time-unit. -/
inductive DelayUnit where
  | timeUnit
  | microTimeUnit
deriving DecidableEq, Repr

/-- The fifteen phases of R31, in the order of their codes 0 to 14; code 15 is no phase (R86). -/
inductive Phase where
  | idle
  | wDirOut
  | wHigh
  | wHighHold
  | wLow
  | wLowHold
  | wRel
  | wRelHold
  | wListen
  | sample
  | decode
  | validate
  | convert
  | done
  | fatal
deriving DecidableEq, Repr

/-- The three values of `status` that are ever written (R80); code 3 is no status (R86). -/
inductive Status where
  | success
  | incompleteFrame
  | checksumMismatch
deriving DecidableEq, Repr

end Sys2Proof
end

