-- ==== Sys2Proof/Config.lean ====
section
/-! DEFINITION. The parameters of R7, the inputs of one clock edge (R24), and the free inputs. -/

namespace Sys2Proof

/-- The input ports of R24 as sampled at one rising edge of `clk`. -/
structure Inputs where
  /-- the command RESET (R171) -/
  rst : Bool
  /-- the command START (R172) -/
  start : Bool
  /-- one polling tick -/
  tick : Bool
  /-- the requested delay has elapsed -/
  dlyDone : Bool
  /-- the raw value `read(pin)` returns, any natural number (R25) -/
  lineIn : Nat
deriving DecidableEq, Repr, Inhabited

/-- The parameters of R7 that a configuration may choose. -/
structure Config where
  /-- `MAX_OBS`, the cap on the number of observations -/
  maxObs : Nat
  /-- `CEIL`, the per-iteration wait ceiling in ticks -/
  ceil : Nat
  /-- `T_IDLE_HIGH`, in time units -/
  tIdleHigh : Nat
  /-- `T_START_LOW`, in time units -/
  tStartLow : Nat
  /-- `T_RELEASE_HIGH`, in micro-time-units -/
  tReleaseHigh : Nat
  /-- `T_TICK`: unspecified by every source (C7, N16), read by no rule (R238) -/
  tTick : Option Nat
deriving DecidableEq, Repr

/-- The defaults of R7. `MAX_OBS` and `CEIL` are the spec's.
DESIGN CHOICE (log entry 3): R7 gives the three hold times as tolerances, and the least value of each stands here;
no rule compares anything with them (R238). -/
def Config.default : Config :=
  { maxObs := 82, ceil := 255, tIdleHigh := 100, tStartLow := 1, tReleaseHigh := 20, tTick := none }

/-- What a model may assume of a configuration (R7), with the upper bounds the widths of R8 put on it
(DEDUCED, log entry 2: `obs_len` reaches `MAX_OBS` in 7 bits, `cnt` reaches `CEIL - 1` in 8). -/
abbrev Config.Ok (c : Config) : Prop :=
  1 ≤ c.maxObs ∧ c.maxObs ≤ 127 ∧ 2 ≤ c.ceil ∧ c.ceil ≤ 256 ∧ 100 ≤ c.tIdleHigh ∧
    (1 ≤ c.tStartLow ∧ c.tStartLow ≤ 10) ∧ (20 ≤ c.tReleaseHigh ∧ c.tReleaseHigh ≤ 40)

/-- The inputs of a clock edge that the queue in the state does not list: the environment's choice, any value (U1, U4, U5;
log entry 1). It has no body, so nothing can be proved of it. -/
opaque Config.freeInputs : Nat → Inputs

/-- `N_BYTES` (R7, fixed). -/
def Config.nBytes : Nat := 5
/-- `N_BITS = 8 * N_BYTES` (R7, fixed). -/
def Config.nBits : Nat := 8 * Config.nBytes
/-- `CAL_INDEX` (R7, fixed). -/
def Config.calIndex : Nat := 2
/-- `FIRST_DATA_INDEX` (R7, fixed). -/
def Config.firstDataIndex : Nat := 3
/-- `DIVISOR`, raw value to physical value (R7, fixed). -/
def Config.divisor : Nat := 10

end Sys2Proof
end

