-- ==== Sys2Proof/Syntax.lean ====
section
/-! DEFINITION. The operations of the block, one constructor per row of the opcode table, and the four word formats. -/

namespace Sys2Proof

/-- The four formats of 30_encoding.md. -/
inductive Format where
  /-- the host command word `{rst, start}`, 2 bits (R76) -/
  | cmd
  /-- the phase code, 4 bits (R77) -/
  | ph
  /-- the sampler condition word `{inv, first, eq, lastcnt, lastidx}`, 5 bits (R74) -/
  | sc
  /-- the pulse observation `{index, duration}`, 15 bits (R70) -/
  | obs
deriving DecidableEq, Repr

/-- One operation of the block (R6, R9). The observation operations carry their word's fields (R70); the tick operations
read their operand `s` at the port, by `LineRead()` (R114), and carry nothing. -/
inductive Instr where
  | reset
  | start
  | startIgnored
  | nopIdle
  | nopDone
  | nopFatal
  | w1DirOut
  | w2DriveHigh
  | w3HoldHigh
  | w4DriveLow
  | w5HoldLow
  | w6DriveRel
  | w7HoldRel
  | w8Listen
  | sFatal
  | sFirst
  | sSame
  | sTimeout
  | sEdge
  | sCap
  /-- index 2 is fixed by the row -/
  | cal (duration : Byte)
  /-- index 1 is fixed by the row -/
  | skip (duration : Byte)
  | data (index : Index) (duration : Byte)
  | dataSaturated (index : Index) (duration : Byte)
  | ref (index : Index) (duration : Byte)
  | endSeq
  | validate
  | convert
deriving DecidableEq, Repr

end Sys2Proof
end

