-- ==== Sys2Proof/WellFormed.lean ====
section
/-! DEFINITION. Which terms of Instr are operations of the block: the exact index sets of R73. -/

namespace Sys2Proof

/-- R7, R72: DATA has an odd index of at least `FIRST_DATA_INDEX`. -/
abbrev Index.isData (i : Index) : Bool := i.toNat % 2 == 1 && decide (Config.firstDataIndex ≤ i.toNat)

/-- R73: REF has an even index other than 2. -/
abbrev Index.isRef (i : Index) : Bool := i.toNat % 2 == 0 && i.toNat != Config.calIndex

/-- The operand check: an observation's index is one its class admits (R72, R73). Every duration is legal (R84), and so is
every index to 127 (R83). -/
def Instr.wellFormed : Instr → Bool
  | .reset => true
  | .start => true
  | .startIgnored => true
  | .nopIdle => true
  | .nopDone => true
  | .nopFatal => true
  | .w1DirOut => true
  | .w2DriveHigh => true
  | .w3HoldHigh => true
  | .w4DriveLow => true
  | .w5HoldLow => true
  | .w6DriveRel => true
  | .w7HoldRel => true
  | .w8Listen => true
  | .sFatal => true
  | .sFirst => true
  | .sSame => true
  | .sTimeout => true
  | .sEdge => true
  | .sCap => true
  | .cal _ => true
  | .skip _ => true
  | .data i _ => Index.isData i
  | .dataSaturated i _ => Index.isData i
  | .ref i _ => Index.isRef i
  | .endSeq => true
  | .validate => true
  | .convert => true

end Sys2Proof
end

