-- ==== Sys2Proof/Decode.lean ====
section
/-! DEFINITION. From words to operations and back (30_encoding.md sections 1 to 3), and the opcode table as data. -/

namespace Sys2Proof

/-- What the condition column of the table reads where two rows have the same word. -/
structure Cond where
  /-- `phase` is `IDLE` or `DONE`: the word `01` is START, else START_IGNORED (R76) -/
  startAccepted : Bool
  /-- not `bit_count < 40`: an odd index of at least 3 is DATA_SATURATED, else DATA (R134, R135) -/
  frameFull : Bool
deriving DecidableEq, Repr

/-- Why a word is no operation. -/
inductive DecodeError where
  /-- a bit above the format's width is set -/
  | tooWide
  /-- CMD `00`: no command, the phase's own operation proceeds (R76) -/
  | noCommand
  /-- PH 9: SAMPLE's operation is selected by a condition word, not by the phase (R77) -/
  | sampleNeedsConditionWord
  /-- PH 15: unused (R86) -/
  | unusedPhaseCode
deriving DecidableEq, Repr

/-- R70, R74, R76, R31: the width of each format in bits. -/
def Format.width : Format → Nat
  | .cmd => 2
  | .ph => 4
  | .sc => 5
  | .obs => 15

/-- The codes of R31. -/
def phaseCode : Phase → BitVec 4
  | .idle => 0
  | .wDirOut => 1
  | .wHigh => 2
  | .wHighHold => 3
  | .wLow => 4
  | .wLowHold => 5
  | .wRel => 6
  | .wRelHold => 7
  | .wListen => 8
  | .sample => 9
  | .decode => 10
  | .validate => 11
  | .convert => 12
  | .done => 13
  | .fatal => 14

/-- The codes of R80. -/
def statusCode : Status → BitVec 2
  | .success => 0
  | .incompleteFrame => 1
  | .checksumMismatch => 2

/-- R76: the host command word. -/
def decodeCmd (c : Cond) (w : BitVec 2) : Except DecodeError Instr :=
  match w.getLsbD 1, w.getLsbD 0 with
  | true, _ => .ok .reset
  | false, true => if c.startAccepted then .ok .start else .ok .startIgnored
  | false, false => .error .noCommand

/-- R77: the operation the phase code selects. The code of DECODE stands for END here: an observation still to be consumed
is presented as an OBS word. -/
def decodePh (w : BitVec 4) : Except DecodeError Instr :=
  match w.toNat with
  | 0 => .ok .nopIdle
  | 1 => .ok .w1DirOut
  | 2 => .ok .w2DriveHigh
  | 3 => .ok .w3HoldHigh
  | 4 => .ok .w4DriveLow
  | 5 => .ok .w5HoldLow
  | 6 => .ok .w6DriveRel
  | 7 => .ok .w7HoldRel
  | 8 => .ok .w8Listen
  | 9 => .error .sampleNeedsConditionWord
  | 10 => .ok .endSeq
  | 11 => .ok .validate
  | 12 => .ok .convert
  | 13 => .ok .nopDone
  | 14 => .ok .nopFatal
  | _ => .error .unusedPhaseCode

/-- R75, row by row: `inv`, `first`, `eq`, `lastcnt`, `lastidx`, an underscore for the table's x. -/
def selectTick (inv first eq lastcnt lastidx : Bool) : Instr :=
  match inv, first, eq, lastcnt, lastidx with
  | true, _, _, _, _ => .sFatal
  | false, true, _, _, _ => .sFirst
  | false, false, true, false, _ => .sSame
  | false, false, true, true, _ => .sTimeout
  | false, false, false, _, false => .sEdge
  | false, false, false, _, true => .sCap

/-- R74: the five bits of a condition word. -/
def decodeSc (w : BitVec 5) : Instr :=
  selectTick (w.getLsbD 4) (w.getLsbD 3) (w.getLsbD 2) (w.getLsbD 1) (w.getLsbD 0)

/-- R72: the class of an observation, tested in the rule's order. -/
def decodeObs (c : Cond) (index : Index) (duration : Byte) : Instr :=
  if index.toNat = Config.calIndex then .cal duration
  else if index.toNat = 1 then .skip duration
  else if index.toNat % 2 = 1 then
    if c.frameFull then .dataSaturated index duration else .data index duration
  else .ref index duration

/-- The decoder: total on every word of every format. -/
def decode (c : Cond) (f : Format) (w : OpWord) : Except DecodeError Instr :=
  if 2 ^ f.width ≤ w.toNat then .error .tooWide
  else match f with
    | .cmd => decodeCmd c (w.setWidth 2)
    | .ph => decodePh (w.setWidth 4)
    | .sc => .ok (decodeSc (w.setWidth 5))
    | .obs => .ok (decodeObs c (w.extractLsb' 8 7) (w.extractLsb' 0 8))

/-- R74: the condition word `{inv, first, eq, lastcnt, lastidx}`. -/
def scWord (inv first eq lastcnt lastidx : Bool) : OpWord :=
  (BitVec.ofBool inv ++ BitVec.ofBool first ++ BitVec.ofBool eq ++ BitVec.ofBool lastcnt ++ BitVec.ofBool lastidx
    : BitVec 5).setWidth 16

/-- R70: the observation word `{index, duration}`. -/
def obsWord (index : Index) (duration : Byte) : OpWord :=
  (index ++ duration : BitVec 15).setWidth 16

/-- R76: the command word `{rst, start}`. -/
def cmdWord (rst start : Bool) : OpWord :=
  (BitVec.ofBool rst ++ BitVec.ofBool start : BitVec 2).setWidth 16

/-- R77: the phase code as a word. -/
def phWord (p : Phase) : OpWord :=
  (phaseCode p).setWidth 16

/-- The encoder: the format and the word of an operation, a don't-care bit of the table as 0 (log entry 9). -/
def encode : Instr → Format × OpWord
  | .reset => (.cmd, cmdWord true false)
  | .start => (.cmd, cmdWord false true)
  | .startIgnored => (.cmd, cmdWord false true)
  | .nopIdle => (.ph, phWord .idle)
  | .nopDone => (.ph, phWord .done)
  | .nopFatal => (.ph, phWord .fatal)
  | .w1DirOut => (.ph, phWord .wDirOut)
  | .w2DriveHigh => (.ph, phWord .wHigh)
  | .w3HoldHigh => (.ph, phWord .wHighHold)
  | .w4DriveLow => (.ph, phWord .wLow)
  | .w5HoldLow => (.ph, phWord .wLowHold)
  | .w6DriveRel => (.ph, phWord .wRel)
  | .w7HoldRel => (.ph, phWord .wRelHold)
  | .w8Listen => (.ph, phWord .wListen)
  | .sFatal => (.sc, scWord true false false false false)
  | .sFirst => (.sc, scWord false true false false false)
  | .sSame => (.sc, scWord false false true false false)
  | .sTimeout => (.sc, scWord false false true true false)
  | .sEdge => (.sc, scWord false false false false false)
  | .sCap => (.sc, scWord false false false false true)
  | .cal d => (.obs, obsWord 2 d)
  | .skip d => (.obs, obsWord 1 d)
  | .data i d => (.obs, obsWord i d)
  | .dataSaturated i d => (.obs, obsWord i d)
  | .ref i d => (.obs, obsWord i d)
  | .endSeq => (.ph, phWord .decode)
  | .validate => (.ph, phWord .validate)
  | .convert => (.ph, phWord .convert)

/-- The condition column holds for this operation: the two pairs of rows with one word each. -/
def Cond.admits (c : Cond) : Instr → Bool
  | .start => c.startAccepted
  | .startIgnored => !c.startAccepted
  | .data _ _ => !c.frameFull
  | .dataSaturated _ _ => c.frameFull
  | .cal _ => true
  | .skip _ => true
  | .ref _ _ => true
  | .reset => true
  | .nopIdle => true
  | .nopDone => true
  | .nopFatal => true
  | .w1DirOut => true
  | .w2DriveHigh => true
  | .w3HoldHigh => true
  | .w4DriveLow => true
  | .w5HoldLow => true
  | .w6DriveRel => true
  | .w7HoldRel => true
  | .w8Listen => true
  | .sFatal => true
  | .sFirst => true
  | .sSame => true
  | .sTimeout => true
  | .sEdge => true
  | .sCap => true
  | .endSeq => true
  | .validate => true
  | .convert => true

/-- One row of the opcode table: a word `w` of format `fmt` matches when `w &&& mask = value` and the condition holds. -/
structure Row where
  fmt : Format
  mask : OpWord
  value : OpWord
  guard : Cond → Bool
  build : OpWord → Instr

/-- A row with no condition of its own on the pair of Cond and no operand. -/
def Row.plain (fmt : Format) (mask value : OpWord) (i : Instr) : Row :=
  { fmt := fmt, mask := mask, value := value, guard := fun _ => true, build := fun _ => i }

/-- The rows of formats CMD and PH, in the table's order. -/
def commandAndPhaseRows : List Row :=
  [ .plain .cmd 0b10 0b10 .reset,
    { fmt := .cmd, mask := 0b11, value := 0b01, guard := fun c => c.startAccepted, build := fun _ => .start },
    { fmt := .cmd, mask := 0b11, value := 0b01, guard := fun c => !c.startAccepted, build := fun _ => .startIgnored },
    .plain .ph 0xF 0x0 .nopIdle,
    .plain .ph 0xF 0xD .nopDone,
    .plain .ph 0xF 0xE .nopFatal,
    .plain .ph 0xF 0x1 .w1DirOut,
    .plain .ph 0xF 0x2 .w2DriveHigh,
    .plain .ph 0xF 0x3 .w3HoldHigh,
    .plain .ph 0xF 0x4 .w4DriveLow,
    .plain .ph 0xF 0x5 .w5HoldLow,
    .plain .ph 0xF 0x6 .w6DriveRel,
    .plain .ph 0xF 0x7 .w7HoldRel,
    .plain .ph 0xF 0x8 .w8Listen ]

/-- The rows of format SC (R75). -/
def sampleRows : List Row :=
  [ .plain .sc 0b10000 0b10000 .sFatal,
    .plain .sc 0b11000 0b01000 .sFirst,
    .plain .sc 0b11110 0b00100 .sSame,
    .plain .sc 0b11110 0b00110 .sTimeout,
    .plain .sc 0b11101 0b00000 .sEdge,
    .plain .sc 0b11101 0b00001 .sCap ]

/-- The rows of format OBS in their order of priority (R73), and the three phase rows that follow them. -/
def observationAndEndRows : List Row :=
  [ { fmt := .obs, mask := 0x7F00, value := 0x0200, guard := fun _ => true, build := fun w => .cal (w.extractLsb' 0 8) },
    { fmt := .obs, mask := 0x7F00, value := 0x0100, guard := fun _ => true, build := fun w => .skip (w.extractLsb' 0 8) },
    { fmt := .obs, mask := 0x0100, value := 0x0100, guard := fun c => !c.frameFull,
      build := fun w => .data (w.extractLsb' 8 7) (w.extractLsb' 0 8) },
    { fmt := .obs, mask := 0x0100, value := 0x0100, guard := fun c => c.frameFull,
      build := fun w => .dataSaturated (w.extractLsb' 8 7) (w.extractLsb' 0 8) },
    { fmt := .obs, mask := 0x0100, value := 0x0000, guard := fun _ => true,
      build := fun w => .ref (w.extractLsb' 8 7) (w.extractLsb' 0 8) },
    .plain .ph 0xF 0xA .endSeq,
    .plain .ph 0xF 0xB .validate,
    .plain .ph 0xF 0xC .convert ]

/-- The opcode table, 28 rows in its own order. -/
def opcodeRows : List Row := commandAndPhaseRows ++ sampleRows ++ observationAndEndRows

/-- R73: a row matches when `w & mask = match`, in its format and under its condition. -/
def Row.matchesWord (r : Row) (c : Cond) (f : Format) (w : OpWord) : Bool :=
  decide (r.fmt = f) && (w &&& r.mask == r.value) && r.guard c

/-- The first row of the table that the word matches (R73: "rows are tried in the order given and the first match wins"). -/
def firstRow (c : Cond) (f : Format) (w : OpWord) : Option Row :=
  opcodeRows.find? (fun r => r.matchesWord c f w)

/-- The conditions under which a table word alone is read: START is accepted and the frame is not full (log entry 8). -/
def tableCond : Cond := { startAccepted := true, frameFull := false }

/-- The format a byte is read in when only its value is known: the first row of the table whose `match` is the byte, else
the first row it matches (log entry 8: CMD, PH and SC words all fit a byte and share values). -/
def byteFormat (w : Nat) : Option Format :=
  match opcodeRows.find? (fun r => decide (r.fmt ≠ .obs) && (r.value.toNat == w)) with
  | some r => some r.fmt
  | none =>
    (opcodeRows.find? (fun r =>
      decide (r.fmt ≠ .obs) && decide (w < 2 ^ r.fmt.width) && (BitVec.ofNat 16 w &&& r.mask == r.value))).map (·.fmt)

/-- The format a table word of `nbits` bits is read in: by its exact width, or by whole bytes. -/
def tableFormat (nbits w : Nat) : Option Format :=
  match nbits with
  | 2 => some .cmd
  | 4 => some .ph
  | 5 => some .sc
  | 8 => byteFormat w
  | 15 => some .obs
  | 16 => some .obs
  | _ => none

/-- The operation the decoder reads from a word as the opcode table numbers its bits (none where it refuses). -/
def decodeTableWord (nbits w : Nat) : Option Instr :=
  match tableFormat nbits w with
  | none => none
  | some f =>
    if 2 ^ 16 ≤ w then none
    else match decode tableCond f (BitVec.ofNat 16 w) with
      | .ok i => some i
      | .error _ => none

end Sys2Proof
end

