-- ==== Sys2Proof/Machine/State.lean ====
section
/-! DEFINITION. The state of the block (R20), its faults and refusals, and the state after reset (R45). -/

namespace Sys2Proof.Machine

/-- The reasons the machine stops with a fault. FatalAbstractionError is none of them: its entry is described, so it is a
next state in phase FATAL (R196). -/
inductive Fault where
  /-- Raised by the one read and the one write of the observation buffer, at an address at or above `MAX_OBS`, which does
  not exist (R50). Safe: no state of the invariant raises it, and no effect is invented. -/
  | noSuchEntry (index : Nat)
deriving DecidableEq, Repr

/-- The reasons the machine gives no meaning. -/
inductive Refusal where
  /-- Raised by an arm of exec that has no meaning yet. Safe. -/
  | notModelled (mnemonic : String)
  /-- Raised by step when the presented word is no operation (R86). Safe: no word that fetch presents raises it. -/
  | undecodable (reason : DecodeError)
  /-- Raised by the read of the buffer where the entry holds no value: "A model makes it a refusal, not a value" (R52).
  Safe: no state of the invariant raises it. -/
  | unrecordedEntry (index : Nat)
deriving DecidableEq, Repr

/-- The payload's five registers by the source's names: `payload[0]` to `payload[4]` in this order (R23). -/
structure Payload where
  humidityHigh : Byte
  humidityLow : Byte
  temperatureHigh : Byte
  temperatureLow : Byte
  checksum : Byte
deriving DecidableEq, Repr

/-- A request on the ports `dly_unit`, `dly_n` (R24). -/
structure DelayRequest where
  unit : DelayUnit
  n : Nat
deriving DecidableEq, Repr

structure State where
  /-- R31 -/
  phase : Phase
  /-- R32 -/
  widx : Index
  /-- R33 -/
  ridx : Index
  /-- `obs_len`, R34 -/
  obsLen : Index
  /-- R26 -/
  cnt : Byte
  /-- R27 -/
  held : Level
  /-- `held_valid`, R27 -/
  heldValid : Bool
  /-- `line_oe`, R28 -/
  lineOe : Direction
  /-- `line_out`, R28 -/
  lineOut : Level
  /-- the observation buffer, R42: (address, duration) cells in canonical form -/
  obs : List Host.Cell
  /-- R21 -/
  ref : Byte
  /-- `max_high`, R22 -/
  maxHigh : Byte
  /-- `bit_count`, R23 -/
  bitCount : BitVec 6
  /-- R23 -/
  payload : Payload
  /-- R35 -/
  timeout : Bool
  /-- `cap_hit`, R35 -/
  capHit : Bool
  /-- R36 -/
  complete : Bool
  /-- `csum_ok`, R36 -/
  csumOk : Bool
  /-- R36 -/
  success : Bool
  /-- R37 -/
  done : Bool
  /-- R37 -/
  fatal : Bool
  /-- R40 -/
  status : Status
  /-- `csum_calc`, R40 -/
  csumCalc : Byte
  /-- `hum_x10`, R40 -/
  humX10 : BitVec 16
  /-- `temp_neg`, R40 -/
  tempNeg : Bool
  /-- `temp_mag_x10`, R40 -/
  tempMagX10 : BitVec 15
  /-- `fatal_value`, R41 -/
  fatalValue : Nat
  /-- the ports `dly_go`, `dly_unit`, `dly_n` (R24): the request the last clock edge made, if it made one (log entry 4) -/
  dly : Option DelayRequest
  /-- the MODEL's own: the inputs of the coming clock edges, the next one first (log entry 1) -/
  pending : List Inputs
  /-- the MODEL's own: how many clock edges have been taken, the counter of the free inputs (log entry 1) -/
  edge : Nat
  /-- the MODEL's own: the configuration, which no step writes (R7, R20; log entry 2) -/
  cfg : Config
deriving DecidableEq, Repr

/-- R45, column "after RESET"; power-on is the same as RESET (R220). The fields that are the model's own: no delay request,
no listed input, edge 0, the default configuration (log entries 1 to 4). -/
def State.reset : State :=
  { phase := .idle, widx := 0, ridx := 0, obsLen := 0, cnt := 0, held := .low, heldValid := false,
    lineOe := .input, lineOut := .high, obs := [], ref := 0, maxHigh := 0, bitCount := 0,
    payload := ⟨0, 0, 0, 0, 0⟩, timeout := false, capHit := false, complete := false, csumOk := false,
    success := false, done := false, fatal := false, status := .incompleteFrame, csumCalc := 0, humX10 := 0,
    tempNeg := false, tempMagX10 := 0, fatalValue := 0,
    dly := none, pending := [], edge := 0, cfg := Config.default }

end Sys2Proof.Machine
end

