-- ==== Sys2Proof/Machine/Operands.lean ====
section
/-! DEFINITION. The operands of the operations: the inputs of this edge, the raw sample, levels, payload bytes and fields. -/

namespace Sys2Proof.Machine

/-- The inputs at this clock edge: the head of the queue, or a free value where the queue lists none (R25; log entry 1). -/
def State.now (s : State) : Inputs :=
  match s.pending with
  | [] => Config.freeInputs s.edge
  | e :: _ => e

/-- The inputs `k` edges from now. -/
def State.inputsAt (s : State) (k : Nat) : Inputs :=
  match s.pending[k]? with
  | none => Config.freeInputs (s.edge + k)
  | some e => e

/-- `LineRead()`: the raw value the environment supplies for this tick (R11, R25). -/
def lineRead (s : State) : Nat := s.now.lineIn

/-- R81: HIGH = 1, LOW = 0 at the ports. -/
def levelRaw : Level → Nat
  | .low => 0
  | .high => 1

/-- The level a raw sample is; a value other than 0 and 1 is none (R82, C12). -/
def levelOf (raw : Nat) : Option Level :=
  match raw with
  | 0 => some .low
  | 1 => some .high
  | _ => none

/-- R81: OUTPUT = 1, INPUT = 0 at the port `line_oe`. -/
def directionBit : Direction → Nat
  | .input => 0
  | .output => 1

/-- R81: `dly_unit`. -/
def delayUnitBit : DelayUnit → Nat
  | .timeUnit => 0
  | .microTimeUnit => 1

/-- `payload[0]` to `payload[4]` (R23). -/
def Payload.bytes (p : Payload) : List Byte :=
  [p.humidityHigh, p.humidityLow, p.temperatureHigh, p.temperatureLow, p.checksum]

/-- The payload read as one 40-bit number, `payload[0]` most significant (R78). -/
def Payload.frame (p : Payload) : BitVec 40 :=
  p.humidityHigh ++ p.humidityLow ++ p.temperatureHigh ++ p.temperatureLow ++ p.checksum

/-- R134: `trunc_8((v << 1) | b)`, the new bit at bit 0. -/
def shiftIn (v : Byte) (b : Bool) : Byte := (v <<< 1) ||| (BitVec.ofBool b).setWidth 8

/-- R134: shift one bit into byte `k` of the payload; there is no byte above 4. -/
def shiftInto (p : Payload) (k : Nat) (b : Bool) : Payload :=
  match k with
  | 0 => { p with humidityHigh := shiftIn p.humidityHigh b }
  | 1 => { p with humidityLow := shiftIn p.humidityLow b }
  | 2 => { p with temperatureHigh := shiftIn p.temperatureHigh b }
  | 3 => { p with temperatureLow := shiftIn p.temperatureLow b }
  | 4 => { p with checksum := shiftIn p.checksum b }
  | _ => p

/-- R155: `{payload[0], payload[1]}`. -/
def humidityX10 (p : Payload) : BitVec 16 := p.humidityHigh ++ p.humidityLow

/-- R156: `payload[2][7]`. -/
def temperatureNegative (p : Payload) : Bool := p.temperatureHigh.getLsbD 7

/-- R156: `{payload[2][6:0], payload[3]}`. -/
def temperatureMagnitudeX10 (p : Payload) : BitVec 15 := p.temperatureHigh.extractLsb' 0 7 ++ p.temperatureLow

end Sys2Proof.Machine
end

