-- ==== Sys2Proof/Machine/Flags.lean ====
section
/-! DEFINITION. Every condition and flag the operations compute: the condition word (R74), the data bit (R134), the validator's
flags (R151 to R154), `busy` (R37). -/

namespace Sys2Proof.Machine

/-- R74 `inv`: the raw sample is neither 0 nor 1. -/
def condInv (s : State) : Bool := (levelOf (lineRead s)).isNone

/-- R74 `first`: `held_valid = 0`. -/
def condFirst (s : State) : Bool := !s.heldValid

/-- R74 `eq`: `s = held`. -/
def condEq (s : State) : Bool := lineRead s == levelRaw s.held

/-- R74 `lastcnt`: `cnt + 1 = CEIL`. -/
def condLastCnt (s : State) : Bool := s.cnt.toNat + 1 == s.cfg.ceil

/-- R74 `lastidx`: `widx + 1 = MAX_OBS`. -/
def condLastIdx (s : State) : Bool := s.widx.toNat + 1 == s.cfg.maxObs

/-- R134: `d >= ref`, unsigned; a tie gives 1. -/
def dataBit (d ref : Byte) : Bool := decide (ref.toNat ≤ d.toNat)

/-- R134, R135: whether a DATA observation still appends a bit, `bit_count < 40`. -/
def frameOpen (s : State) : Bool := decide (s.bitCount.toNat < Config.nBits)

/-- R151: the sum of the first four bytes in natural numbers, truncated to 8 bits. -/
def checksumOf (p : Payload) : Byte :=
  BitVec.ofNat 8 (p.humidityHigh.toNat + p.humidityLow.toNat + p.temperatureHigh.toNat + p.temperatureLow.toNat)

/-- R152: `bit_count >= 40`. -/
def completeOf (bitCount : BitVec 6) : Bool := decide (Config.nBits ≤ bitCount.toNat)

/-- R153: the computed checksum equals the fifth byte exactly. -/
def csumOkOf (p : Payload) : Bool := checksumOf p == p.checksum

/-- R154: the completeness test comes first. -/
def statusOf (complete csumOk : Bool) : Status :=
  match complete, csumOk with
  | false, _ => .incompleteFrame
  | true, false => .checksumMismatch
  | true, true => .success

/-- R172, R173: START is accepted in `IDLE` and `DONE` only. -/
def acceptsStart (p : Phase) : Bool :=
  match p with
  | .idle => true
  | .done => true
  | _ => false

/-- R37: `busy` = `phase` is none of `IDLE`, `DONE`, `FATAL`. -/
def State.busy (s : State) : Bool :=
  match s.phase with
  | .idle => false
  | .done => false
  | .fatal => false
  | _ => true

end Sys2Proof.Machine
end

