-- ==== Sys2Proof/Machine/Ops.lean ====
section
/-! DEFINITION. The shared operations: the observation buffer, taking FatalAbstractionError and leaving it, the register sets of
RESET and START, a clock edge's own bookkeeping. -/

namespace Sys2Proof.Machine

/-- What an operation answers. -/
abbrev Result := Host.Outcome State Fault Refusal

/-- What an address that no cell lists reads as: no value (R42, R222; log entry 11). -/
def Memory.unlisted (_ : Nat) : Option Byte := none

/-- The value of one address. -/
def Memory.read : List Host.Cell → Nat → Option Byte
  | [], a => Memory.unlisted a
  | (x, v) :: m, a => if a = x then some v else Memory.read m a

/-- One address takes a value; the list stays in canonical form. -/
def Memory.write : List Host.Cell → Nat → Byte → List Host.Cell
  | [], a, b => [(a, b)]
  | (x, v) :: m, a, b =>
    if a < x then (a, b) :: (x, v) :: m
    else if a = x then (a, b) :: m
    else (x, v) :: Memory.write m a b

/-- The canonical form: addresses strictly rising, and no entry equal to what an unlisted address reads as. -/
def Memory.wf : List Host.Cell → Bool
  | [] => true
  | [(x, v)] => some v != Memory.unlisted x
  | (x, v) :: (y, w) :: m => decide (x < y) && (some v != Memory.unlisted x) && Memory.wf ((y, w) :: m)

/-- `MemRead(i, 1)` (R52): defined only for `i < obs_len`. -/
def memRead (s : State) (i : Nat) : Host.Outcome Byte Fault Refusal :=
  if s.cfg.maxObs ≤ i then .fault (.noSuchEntry i)
  else if s.obsLen.toNat ≤ i then .refused (.unrecordedEntry i)
  else match Memory.read s.obs i with
    | none => .refused (.unrecordedEntry i)
    | some v => .next v

/-- `MemWrite(i, 1, v)` (R51). -/
def memWrite (s : State) (i : Nat) (v : Byte) : Result :=
  if s.cfg.maxObs ≤ i then .fault (.noSuchEntry i)
  else .next { s with obs := Memory.write s.obs i v }

/-- `phase <- P` (R11). -/
def setPhase (p : Phase) (s : State) : State := { s with phase := p }

/-- `ridx <- ridx + 1` (R130). -/
def nextObservation (s : State) : State := { s with ridx := s.ridx + 1 }

/-- `raise Fatal(v)` (R196): taking FatalAbstractionError. Nothing is saved, and every register not named keeps its value. -/
def raiseFatal (v : Nat) (s : State) : State :=
  { s with fatal := true, fatalValue := v, lineOe := .input, phase := .fatal }

/-- The register set "after RESET" of R45 (R171). R197: there is no return from FATAL but this one. The model's own fields
stand, and the delay ports are as this edge found them. -/
def resetRegisters (s : State) : State :=
  { State.reset with dly := s.dly, pending := s.pending, edge := s.edge, cfg := s.cfg }

/-- The register set "after START" of R45 (R172): that of RESET but for `phase`, and the line registers unchanged. -/
def startRegisters (s : State) : State :=
  { resetRegisters s with phase := .wDirOut, lineOe := s.lineOe, lineOut := s.lineOut }

/-- R134: append one bit to the payload at byte `bit_count div 8`. -/
def appendBit (b : Bool) (s : State) : State :=
  { s with payload := shiftInto s.payload (s.bitCount.toNat / 8) b, bitCount := s.bitCount + 1 }

/-- What S_EDGE and S_CAP share (R112): record `cnt` at `widx`, and begin the next interval at the level `l`. -/
def recordObservation (l : Level) (s : State) : Result :=
  match memWrite s s.widx.toNat s.cnt with
  | .next s' => .next { s' with obsLen := s.widx + 1, widx := s.widx + 1, held := l, cnt := 0 }
  | .fault r => .fault r
  | .refused r => .refused r

/-- The operand of a tick operation that needs a level. The validity check is "made on every sample, the first one included,
and before any comparison with `held`" (R108, R200): a sample that is no level takes the fatal stop (log entry 5). -/
def withLevel (s : State) (f : Level → Result) : Result :=
  match levelOf (lineRead s) with
  | none => .next (raiseFatal (lineRead s) s)
  | some l => f l

/-- Before the edge's operation: the ports show no delay request (log entry 4). -/
def openEdge (s : State) : State := { s with dly := none }

/-- After the edge's operation: its inputs are spent. -/
def closeEdge (s : State) : State := { s with pending := s.pending.tail, edge := s.edge + 1 }

/-- closeEdge where the operation answered a next state. -/
def closed : Result → Result
  | .next s => .next (closeEdge s)
  | .fault r => .fault r
  | .refused r => .refused r

end Sys2Proof.Machine
end

