-- ==== Sys2Proof/Machine/Decoder.lean ====
section
/-! DEFINITION. The operations of the Frame Decoder (41_decoder.md). -/

namespace Sys2Proof.Machine

/-- R131: `ref <- d`. -/
def execRef (_index : Index) (d : Byte) (s : State) : Result :=
  .next (nextObservation { s with ref := d })

/-- R132: `max_high <- d; ref <- d`. -/
def execCal (d : Byte) (s : State) : Result :=
  .next (nextObservation { s with maxHigh := d, ref := d })

/-- R133: no register changes except `ridx`. -/
def execSkip (_d : Byte) (s : State) : Result :=
  .next (nextObservation s)

/-- R134: one bit, `d >= ref`; with `bit_count` not below 40 nothing but `ridx` changes (R135; log entry 10). -/
def execData (_index : Index) (d : Byte) (s : State) : Result :=
  .next (nextObservation (if frameOpen s then appendBit (dataBit d s.ref) s else s))

/-- R135: nothing changes except `ridx`. -/
def execDataSaturated (_index : Index) (_d : Byte) (s : State) : Result :=
  .next (nextObservation s)

/-- R136: `phase <- VALIDATE`. -/
def execEndSeq (s : State) : Result :=
  .next (setPhase .validate s)

/-- `DecodeStep()` of R130, as the rule writes it. -/
def decodeStep (s : State) : Result :=
  if s.ridx = s.obsLen then execEndSeq s
  else match memRead s s.ridx.toNat with
    | .fault r => .fault r
    | .refused r => .refused r
    | .next d =>
      if s.ridx = 2 then execCal d s
      else if s.ridx = 1 then execSkip d s
      else if s.ridx.toNat % 2 = 1 then
        if frameOpen s then execData s.ridx d s else execDataSaturated s.ridx d s
      else execRef s.ridx d s

end Sys2Proof.Machine
end

