-- ==== Sys2Proof/Machine/Tick.lean ====
section
/-! DEFINITION. The six tick operations of the pulse-duration edge detector (40_sampler.md section 2). -/

namespace Sys2Proof.Machine

/-- R108: `raise Fatal(s)`. -/
def execSFatal (s : State) : Result := .next (raiseFatal (lineRead s) s)

/-- R109: `held <- s; held_valid <- 1; cnt <- 1`. -/
def execSFirst (s : State) : Result :=
  withLevel s fun l => .next { s with held := l, heldValid := true, cnt := 1 }

/-- R110: `cnt <- cnt + 1`. -/
def execSSame (s : State) : Result :=
  withLevel s fun _ => .next { s with cnt := s.cnt + 1 }

/-- R111: `timeout <- 1; cnt <- 0; phase <- DECODE`; the interval in progress is not recorded. -/
def execSTimeout (s : State) : Result :=
  withLevel s fun _ => .next { s with timeout := true, cnt := 0, phase := .decode }

/-- R112: the interval is recorded and the sample begins the next one, counted in neither. -/
def execSEdge (s : State) : Result :=
  withLevel s fun l => recordObservation l s

/-- R113: "everything S_EDGE does, and `cap_hit <- 1; phase <- DECODE`". -/
def execSCap (s : State) : Result :=
  withLevel s fun l => recordObservation l { s with capHit := true, phase := .decode }

/-- `SampleTick()` of R114, as the rule writes it. -/
def sampleTick (s : State) : Result :=
  if lineRead s ≠ 0 ∧ lineRead s ≠ 1 then execSFatal s
  else if s.heldValid = false then execSFirst s
  else if lineRead s = levelRaw s.held then
    if s.cnt.toNat + 1 = s.cfg.ceil then execSTimeout s else execSSame s
  else if s.widx.toNat + 1 = s.cfg.maxObs then execSCap s
  else execSEdge s

end Sys2Proof.Machine
end

