-- ==== Sys2Proof/Machine/Validate.lean ====
section
/-! DEFINITION. VALIDATE and CONVERT (42_validate_convert.md). -/

namespace Sys2Proof.Machine

/-- R150: checksum, completeness, outcome. -/
def execValidate (s : State) : Result :=
  .next { s with
    csumCalc := checksumOf s.payload
    complete := completeOf s.bitCount
    csumOk := csumOkOf s.payload
    success := completeOf s.bitCount && csumOkOf s.payload
    status := statusOf (completeOf s.bitCount) (csumOkOf s.payload)
    phase := .convert }

/-- R160: payload to reading, whatever the status. -/
def execConvert (s : State) : Result :=
  .next { s with
    humX10 := humidityX10 s.payload
    tempNeg := temperatureNegative s.payload
    tempMagX10 := temperatureMagnitudeX10 s.payload
    done := true
    phase := .done }

end Sys2Proof.Machine
end

