-- ==== Sys2Proof/Machine/WakeUp.lean ====
section
/-! DEFINITION. The eight wake-up steps of the Pulse Sampler (40_sampler.md section 1). -/

namespace Sys2Proof.Machine

/-- What the three holds share: `if dly_done = 1 then phase <- P`, otherwise no change (R102, R104, R106, R174). -/
def holdThen (p : Phase) (s : State) : Result :=
  .next (if s.now.dlyDone then setPhase p s else s)

/-- What the three drives share: a level on the line, a delay request on the ports, the next phase (R101, R103, R105). -/
def driveThen (l : Level) (u : DelayUnit) (n : Nat) (p : Phase) (s : State) : Result :=
  .next { s with lineOut := l, dly := some ⟨u, n⟩, phase := p }

/-- R100: `line_oe <- 1; phase <- W_HIGH`. -/
def execW1DirOut (s : State) : Result := .next { s with lineOe := .output, phase := .wHigh }

/-- R101: `line_out <- 1`, a delay of `T_IDLE_HIGH` time units. -/
def execW2DriveHigh (s : State) : Result := driveThen .high .timeUnit s.cfg.tIdleHigh .wHighHold s

/-- R102. -/
def execW3HoldHigh (s : State) : Result := holdThen .wLow s

/-- R103: `line_out <- 0`, a delay of `T_START_LOW` time units. -/
def execW4DriveLow (s : State) : Result := driveThen .low .timeUnit s.cfg.tStartLow .wLowHold s

/-- R104. -/
def execW5HoldLow (s : State) : Result := holdThen .wRel s

/-- R105: `line_out <- 1`, a delay of `T_RELEASE_HIGH` micro-time-units. -/
def execW6DriveRel (s : State) : Result := driveThen .high .microTimeUnit s.cfg.tReleaseHigh .wRelHold s

/-- R106. -/
def execW7HoldRel (s : State) : Result := holdThen .wListen s

/-- R107: the line to input, and a first interval about to begin. -/
def execW8Listen (s : State) : Result :=
  .next { s with lineOe := .input, widx := 0, cnt := 0, heldValid := false, phase := .sample }

end Sys2Proof.Machine
end

