-- ==== Sys2Proof/Machine/Control.lean ====
section
/-! DEFINITION. The host's commands and the phases in which nothing happens (43_control.md). -/

namespace Sys2Proof.Machine

/-- R171. -/
def execReset (s : State) : Result := .next (resetRegisters s)

/-- R172. -/
def execStart (s : State) : Result := .next (startRegisters s)

/-- R174 in `IDLE`. -/
def execNopIdle (s : State) : Result := .next s

/-- R174 in `DONE`. -/
def execNopDone (s : State) : Result := .next s

/-- R174 in `FATAL`. -/
def execNopFatal (s : State) : Result := .next s

/-- The operation the phase selects, no command looked at, written directly from R77, R114 and R130. -/
def phaseOperation (s : State) : Result :=
  match s.phase with
  | .idle => execNopIdle s
  | .wDirOut => execW1DirOut s
  | .wHigh => execW2DriveHigh s
  | .wHighHold => execW3HoldHigh s
  | .wLow => execW4DriveLow s
  | .wLowHold => execW5HoldLow s
  | .wRel => execW6DriveRel s
  | .wRelHold => execW7HoldRel s
  | .wListen => execW8Listen s
  | .sample => if s.now.tick then sampleTick s else .next s
  | .decode => decodeStep s
  | .validate => execValidate s
  | .convert => execConvert s
  | .done => execNopDone s
  | .fatal => execNopFatal s

/-- R173: "none of its own; the phase's operation proceeds as if `start` were 0". -/
def execStartIgnored (s : State) : Result := phaseOperation s

end Sys2Proof.Machine
end

