-- ==== Sys2Proof/Machine/Fetch.lean ====
section
/-! DEFINITION. Which word the block presents at a clock edge (R76, R77, R74, R70), and how a test puts a chosen operation next. -/

namespace Sys2Proof.Machine

/-- What a clock edge presents. -/
inductive Fetched where
  | word (f : Format) (w : OpWord)
  /-- SAMPLE with `tick = 0`: no operation is performed (R77, R174) -/
  | nothing
  | fault (r : Fault)
  | refused (r : Refusal)
deriving DecidableEq, Repr

/-- The two conditions of the opcode table that tell rows with one word apart. -/
def condOf (s : State) : Cond :=
  { startAccepted := acceptsStart s.phase, frameFull := !frameOpen s }

/-- R74: the condition word of this tick. -/
def tickWord (s : State) : OpWord :=
  scWord (condInv s) (condFirst s) (condEq s) (condLastCnt s) (condLastIdx s)

/-- The word of the phase's own operation (R77). -/
def fetchPhase (s : State) : Fetched :=
  match s.phase with
  | .sample => if s.now.tick then .word .sc (tickWord s) else .nothing
  | .decode =>
    if s.ridx = s.obsLen then .word .ph (phWord .decode)
    else match memRead s s.ridx.toNat with
      | .next d => .word .obs (obsWord s.ridx d)
      | .fault r => .fault r
      | .refused r => .refused r
  | p => .word .ph (phWord p)

/-- R170, R76: a command word where one is given, else the phase's own. -/
def fetch (s : State) : Fetched :=
  if s.now.rst || s.now.start then .word .cmd (cmdWord s.now.rst s.now.start) else fetchPhase s

/-- Inputs with no command, no tick and no answered delay. -/
def quietInputs : Inputs := { rst := false, start := false, tick := false, dlyDone := false, lineIn := 0 }

/-- Put an edge's inputs first in the queue. -/
def withInputs (e : Inputs) (s : State) : State := { s with pending := e :: s.pending }

/-- Put the block in a phase, with an edge of no command on which a pending delay is answered. -/
def placePhase (p : Phase) (s : State) : State :=
  withInputs { quietInputs with dlyDone := true } (setPhase p s)

/-- Put the sampler at a tick whose raw sample is `raw`. -/
def placeTick (raw : Nat) (s : State) : State :=
  withInputs { quietInputs with tick := true, lineIn := raw } (setPhase .sample s)

/-- The raw value of the level a run at `held` is not at. -/
def otherRaw (l : Level) : Nat :=
  match l with
  | .low => 1
  | .high => 0

/-- Put the observation `(index, d)` where the decoder reads next: the entry, `obs_len` and `MAX_OBS` above it. -/
def placeObservation (index : Index) (d : Byte) (s : State) : State :=
  withInputs quietInputs
    { s with
      phase := .decode
      ridx := index
      obsLen := if index.toNat < s.obsLen.toNat then s.obsLen else index + 1
      obs := Memory.write s.obs index.toNat d
      cfg := { s.cfg with maxObs := max s.cfg.maxObs (index.toNat + 1) } }

/-- Set all that it takes for the very next step to perform `i` (log entry 8). -/
def place (i : Instr) (s : State) : State :=
  match i with
  | .reset => withInputs { quietInputs with rst := true } s
  | .start => withInputs { quietInputs with start := true } (if acceptsStart s.phase then s else setPhase .idle s)
  | .startIgnored =>
    withInputs { quietInputs with start := true } (if acceptsStart s.phase then setPhase .wDirOut s else s)
  | .nopIdle => placePhase .idle s
  | .nopDone => placePhase .done s
  | .nopFatal => placePhase .fatal s
  | .w1DirOut => placePhase .wDirOut s
  | .w2DriveHigh => placePhase .wHigh s
  | .w3HoldHigh => placePhase .wHighHold s
  | .w4DriveLow => placePhase .wLow s
  | .w5HoldLow => placePhase .wLowHold s
  | .w6DriveRel => placePhase .wRel s
  | .w7HoldRel => placePhase .wRelHold s
  | .w8Listen => placePhase .wListen s
  | .sFatal => placeTick 2 s
  | .sFirst => placeTick 1 { s with heldValid := false }
  | .sSame =>
    placeTick (levelRaw s.held)
      { s with heldValid := true, cnt := if s.cnt.toNat + 1 = s.cfg.ceil then 0 else s.cnt }
  | .sTimeout =>
    placeTick (levelRaw s.held) { s with heldValid := true, cnt := BitVec.ofNat 8 (s.cfg.ceil - 1) }
  | .sEdge =>
    placeTick (otherRaw s.held)
      { s with heldValid := true, widx := if s.widx.toNat + 1 < s.cfg.maxObs then s.widx else 0 }
  | .sCap =>
    placeTick (otherRaw s.held) { s with heldValid := true, widx := BitVec.ofNat 7 (s.cfg.maxObs - 1) }
  | .cal d => placeObservation 2 d s
  | .skip d => placeObservation 1 d s
  | .data index d => placeObservation index d { s with bitCount := if frameOpen s then s.bitCount else 0 }
  | .dataSaturated index d => placeObservation index d { s with bitCount := if frameOpen s then 40 else s.bitCount }
  | .ref index d => placeObservation index d s
  | .endSeq => placePhase .decode { s with ridx := s.obsLen }
  | .validate => placePhase .validate s
  | .convert => placePhase .convert s

end Sys2Proof.Machine
end

