-- ==== Sys2Proof/Machine/HostView.lean ====
section
/-! DEFINITION. What the host can read, and the outcome it reads there (R40, R41, R157, R158, R179, R180, R208). -/

namespace Sys2Proof.Machine

/-- The reading in tenths, as the ports give it (R155, R156). -/
structure Reading where
  humX10 : BitVec 16
  tempNeg : Bool
  tempMagX10 : BitVec 15
deriving DecidableEq, Repr

/-- R157: the signed view, a derived value; "minus zero" gives 0. -/
def Reading.tempX10 (r : Reading) : Int :=
  if r.tempNeg then -(r.tempMagX10.toNat : Int) else (r.tempMagX10.toNat : Int)

/-- R158: the exact rational reading, no floating point. -/
def Reading.temperatureCelsius (r : Reading) : Rat := (r.tempX10 : Rat) / (Config.divisor : Rat)

/-- R155, R158. -/
def Reading.humidityPercent (r : Reading) : Rat := ((r.humX10.toNat : Nat) : Rat) / (Config.divisor : Rat)

/-- The source's DecodeOutcome (R40): the failure variant still carries the reading and the diagnostic fields. -/
inductive DecodeOutcome where
  | success (reading : Reading)
  | failure (bitsReceived : BitVec 6) (partialPayload : Payload) (computedChecksum : Byte) (reading : Reading)
deriving DecidableEq, Repr

/-- Everything the host can read (R24, R40, R41, R208); the observation buffer, `ref` and `max_high` are not in it. -/
structure HostView where
  lineOe : Direction
  lineOut : Level
  dly : Option DelayRequest
  busy : Bool
  done : Bool
  fatal : Bool
  status : Status
  complete : Bool
  csumOk : Bool
  success : Bool
  bitCount : BitVec 6
  payload : Payload
  csumCalc : Byte
  humX10 : BitVec 16
  tempNeg : Bool
  tempMagX10 : BitVec 15
  timeout : Bool
  capHit : Bool
  fatalValue : Nat
deriving DecidableEq, Repr

/-- The output ports. -/
def hostView (s : State) : HostView :=
  { lineOe := s.lineOe, lineOut := s.lineOut, dly := s.dly, busy := s.busy, done := s.done, fatal := s.fatal,
    status := s.status, complete := s.complete, csumOk := s.csumOk, success := s.success, bitCount := s.bitCount,
    payload := s.payload, csumCalc := s.csumCalc, humX10 := s.humX10, tempNeg := s.tempNeg,
    tempMagX10 := s.tempMagX10, timeout := s.timeout, capHit := s.capHit, fatalValue := s.fatalValue }

/-- The reading on the ports. -/
def HostView.reading (v : HostView) : Reading := ⟨v.humX10, v.tempNeg, v.tempMagX10⟩

/-- R179, R180: an outcome exists exactly while `done = 1`, and is read from `success` and the other result fields. -/
def HostView.outcome (v : HostView) : Option DecodeOutcome :=
  if v.done then
    some (if v.success then .success v.reading else .failure v.bitCount v.payload v.csumCalc v.reading)
  else none

/-- R179: the exchange has ended. -/
def exchangeEnded (s : State) : Bool :=
  match s.phase with
  | .done => true
  | .fatal => true
  | _ => false

end Sys2Proof.Machine
end

