-- ==== Sys2Proof/Machine/Dispatch.lean ====
section
/-! DEFINITION. One arm per operation of the opcode table. -/

namespace Sys2Proof.Machine

def exec (i : Instr) (s : State) : Host.Outcome State Fault Refusal :=
  match i with
  | .reset => Sys2Proof.Machine.execReset s
  | .start => Sys2Proof.Machine.execStart s
  | .startIgnored => Sys2Proof.Machine.execStartIgnored s
  | .nopIdle => Sys2Proof.Machine.execNopIdle s
  | .nopDone => Sys2Proof.Machine.execNopDone s
  | .nopFatal => Sys2Proof.Machine.execNopFatal s
  | .w1DirOut => Sys2Proof.Machine.execW1DirOut s
  | .w2DriveHigh => Sys2Proof.Machine.execW2DriveHigh s
  | .w3HoldHigh => Sys2Proof.Machine.execW3HoldHigh s
  | .w4DriveLow => Sys2Proof.Machine.execW4DriveLow s
  | .w5HoldLow => Sys2Proof.Machine.execW5HoldLow s
  | .w6DriveRel => Sys2Proof.Machine.execW6DriveRel s
  | .w7HoldRel => Sys2Proof.Machine.execW7HoldRel s
  | .w8Listen => Sys2Proof.Machine.execW8Listen s
  | .sFatal => Sys2Proof.Machine.execSFatal s
  | .sFirst => Sys2Proof.Machine.execSFirst s
  | .sSame => Sys2Proof.Machine.execSSame s
  | .sTimeout => Sys2Proof.Machine.execSTimeout s
  | .sEdge => Sys2Proof.Machine.execSEdge s
  | .sCap => Sys2Proof.Machine.execSCap s
  | .cal duration => Sys2Proof.Machine.execCal duration s
  | .skip duration => Sys2Proof.Machine.execSkip duration s
  | .data index duration => Sys2Proof.Machine.execData index duration s
  | .dataSaturated index duration => Sys2Proof.Machine.execDataSaturated index duration s
  | .ref index duration => Sys2Proof.Machine.execRef index duration s
  | .endSeq => Sys2Proof.Machine.execEndSeq s
  | .validate => Sys2Proof.Machine.execValidate s
  | .convert => Sys2Proof.Machine.execConvert s

end Sys2Proof.Machine
end

