-- ==== Sys2Proof/Machine/Step.lean ====
section
/-! DEFINITION. One clock edge (R170), and a table word put where the next step reads it. -/

namespace Sys2Proof.Machine

/-- One rising edge of `clk`: the presented word is decoded and performed; with nothing presented no register changes. -/
def step (s : State) : Host.Outcome State Fault Refusal :=
  match fetch s with
  | .nothing => .next (closeEdge (openEdge s))
  | .fault r => .fault r
  | .refused r => .refused r
  | .word f w =>
    match decode (condOf s) f w with
    | .ok i => closed (exec i (openEdge s))
    | .error e => .refused (.undecodable e)

/-- The state whose very next step performs the operation of this table word; `s` itself where the word is none. -/
def State.withFetchWord (s : State) (nbits w : Nat) : State :=
  match decodeTableWord nbits w with
  | some i => place i s
  | none => s

end Sys2Proof.Machine
end

