-- ==== Sys2Proof/Safety.lean ====
section
/-! DEFINITION. The terms claims use: the invariant (R46 with R35 to R37, R45, R223), runs, and the spec's pure reference
functions (R130, R137, R175). -/

namespace Sys2Proof.Machine

/-- 20_memory.md R51, R46: the buffer holds exactly the entries below `obs_len`, in canonical form, each below `CEIL`. -/
abbrev BufferInv (s : State) : Prop :=
  Memory.wf s.obs = true ∧ s.obs.map Prod.fst = List.range s.obsLen.toNat ∧
    (∀ c ∈ s.obs, c.2.toNat < s.cfg.ceil) ∧ s.obsLen = s.widx ∧ s.widx.toNat ≤ s.cfg.maxObs

/-- The phases before the first tick: nothing is recorded yet (R45, R107). -/
abbrev beforeSample (p : Phase) : Bool :=
  match p with
  | .idle => true
  | .wDirOut => true
  | .wHigh => true
  | .wHighHold => true
  | .wLow => true
  | .wLowHold => true
  | .wRel => true
  | .wRelHold => true
  | .wListen => true
  | _ => false

/-- The phases of a sampled exchange, the ones after SAMPLE without a fatal stop. -/
abbrev afterSample (p : Phase) : Bool :=
  match p with
  | .decode => true
  | .validate => true
  | .convert => true
  | .done => true
  | _ => false

/-- R26, R46, R107, R109, R113: the sampler's counters. -/
abbrev SamplerInv (s : State) : Prop :=
  s.cnt.toNat < s.cfg.ceil ∧
    (beforeSample s.phase = true → s.obsLen = 0) ∧
    (s.phase = .sample → s.widx.toNat < s.cfg.maxObs) ∧
    (s.phase = .sample → s.heldValid = false → s.cnt = 0 ∧ s.widx = 0)

/-- R46, R137: the decoder's counters and the payload; `bit_count` is exactly what the consumed observations give. -/
abbrev DecoderInv (s : State) : Prop :=
  s.ridx.toNat ≤ s.obsLen.toNat ∧
    (afterSample s.phase = false → s.ridx = 0) ∧
    (afterSample s.phase = true → s.phase ≠ .decode → s.ridx = s.obsLen) ∧
    s.bitCount.toNat = min Config.nBits ((s.ridx.toNat - 2) / 2) ∧
    (∀ k ∈ List.range 5,
      (s.bitCount.toNat / 8 < k → s.payload.bytes[k]? = some 0) ∧
      (k = s.bitCount.toNat / 8 → ∀ v ∈ s.payload.bytes[k]?, v.toNat < 2 ^ (s.bitCount.toNat % 8)))

/-- R223, R28: where the line is driven, and at which level. -/
abbrev LineInv (s : State) : Prop :=
  (s.lineOe = .output ↔
    s.phase = .wHigh ∨ s.phase = .wHighHold ∨ s.phase = .wLow ∨ s.phase = .wLowHold ∨ s.phase = .wRel ∨
      s.phase = .wRelHold ∨ s.phase = .wListen) ∧
    (s.lineOut = .low ↔ s.phase = .wLowHold ∨ s.phase = .wRel)

/-- R35, R37, R41, R113: the progress flags, and exactly one reason for leaving SAMPLE. -/
abbrev FlagInv (s : State) : Prop :=
  (s.done = true ↔ s.phase = .done) ∧ (s.fatal = true ↔ s.phase = .fatal) ∧
    (afterSample s.phase = true → s.timeout = !s.capHit) ∧
    (afterSample s.phase = false → s.timeout = false ∧ s.capHit = false) ∧
    (s.capHit = true → s.obsLen.toNat = s.cfg.maxObs) ∧
    (s.timeout = true → s.obsLen.toNat < s.cfg.maxObs) ∧
    (s.fatal = true → 2 ≤ s.fatalValue) ∧ (s.fatal = false → s.fatalValue = 0)

/-- R45, R150, R160: the result fields are at their START values until VALIDATE and CONVERT write them, and then are what
those operations compute from the payload. -/
abbrev ResultInv (s : State) : Prop :=
  (if s.phase = .convert ∨ s.phase = .done then
      s.csumCalc = checksumOf s.payload ∧ s.complete = completeOf s.bitCount ∧ s.csumOk = csumOkOf s.payload ∧
        s.success = (s.complete && s.csumOk) ∧ s.status = statusOf s.complete s.csumOk
    else
      s.csumCalc = 0 ∧ s.complete = false ∧ s.csumOk = false ∧ s.success = false ∧ s.status = .incompleteFrame) ∧
    (if s.phase = .done then
      s.humX10 = humidityX10 s.payload ∧ s.tempNeg = temperatureNegative s.payload ∧
        s.tempMagX10 = temperatureMagnitudeX10 s.payload
    else s.humX10 = 0 ∧ s.tempNeg = false ∧ s.tempMagX10 = 0)

/-- Where a delay request stands on the ports, and which (R101, R103, R105; log entry 4). -/
abbrev DelayInv (s : State) : Prop :=
  ∀ r ∈ s.dly,
    (s.phase = .wHighHold ∧ r = ⟨.timeUnit, s.cfg.tIdleHigh⟩) ∨
      (s.phase = .wLowHold ∧ r = ⟨.timeUnit, s.cfg.tStartLow⟩) ∨
      (s.phase = .wRelHold ∧ r = ⟨.microTimeUnit, s.cfg.tReleaseHigh⟩)

/-- The invariant of the block: R46 and what the rules named above add to it. -/
structure Inv (s : State) : Prop where
  cfgOk : s.cfg.Ok
  buffer : BufferInv s
  sampler : SamplerInv s
  decoder : DecoderInv s
  line : LineInv s
  flags : FlagInv s
  results : ResultInv s
  delay : DelayInv s

/-- The phase one clock edge leads to: the transition table of R175 row by row, with the conditions of R114. -/
def nextPhase (s : State) : Phase :=
  if s.now.rst then .idle
  else if s.now.start && acceptsStart s.phase then .wDirOut
  else match s.phase with
    | .idle => .idle
    | .wDirOut => .wHigh
    | .wHigh => .wHighHold
    | .wHighHold => if s.now.dlyDone then .wLow else .wHighHold
    | .wLow => .wLowHold
    | .wLowHold => if s.now.dlyDone then .wRel else .wLowHold
    | .wRel => .wRelHold
    | .wRelHold => if s.now.dlyDone then .wListen else .wRelHold
    | .wListen => .sample
    | .sample =>
      if s.now.tick = false then .sample
      else if s.now.lineIn ≠ 0 ∧ s.now.lineIn ≠ 1 then .fatal
      else if s.heldValid = false then .sample
      else if s.now.lineIn = levelRaw s.held then (if s.cnt.toNat + 1 = s.cfg.ceil then .decode else .sample)
      else if s.widx.toNat + 1 = s.cfg.maxObs then .decode else .sample
    | .decode => if s.ridx = s.obsLen then .validate else .decode
    | .validate => .convert
    | .convert => .done
    | .done => .done
    | .fatal => .fatal

/-- Every register of R20 is the same in both states: all of State but the delay ports and the model's own fields. -/
def SameRegisters (s t : State) : Prop :=
  t = { s with dly := t.dly, pending := t.pending, edge := t.edge, cfg := t.cfg }

/-- `k` clock edges. -/
def runEdges (k : Nat) (s : State) : Result := Sys2Proof.core.run k s

/-- The decoder's own state (R130). -/
structure DecoderState where
  ref : Byte
  maxHigh : Byte
  bitCount : BitVec 6
  payload : Payload
deriving DecidableEq, Repr

/-- The decoder's registers in a state. -/
def decoderState (s : State) : DecoderState := ⟨s.ref, s.maxHigh, s.bitCount, s.payload⟩

/-- `(0, 0, 0, [0,0,0,0,0])` (R130). -/
def DecoderState.initial : DecoderState := ⟨0, 0, 0, ⟨0, 0, 0, 0, 0⟩⟩

/-- R130: the one pure function of the fold, on the state, the ordinal index and the duration. -/
def decoderFunction (d : DecoderState) (i : Nat) (duration : Byte) : DecoderState :=
  if i = 2 then { d with maxHigh := duration, ref := duration }
  else if i = 1 then d
  else if i % 2 = 1 then
    if d.bitCount.toNat < 40 then
      { d with
        bitCount := d.bitCount + 1
        payload := shiftInto d.payload (d.bitCount.toNat / 8) (decide (d.ref.toNat ≤ duration.toNat)) }
    else d
  else { d with ref := duration }

/-- R130: "decoding is a left fold of one pure function over the observation sequence", from ordinal index `i` on. -/
def decoderFold (d : DecoderState) : Nat → List Byte → DecoderState
  | _, [] => d
  | i, x :: xs => decoderFold (decoderFunction d i x) (i + 1) xs

/-- The observation sequence of an exchange (R53). -/
def durations (s : State) : List Byte := s.obs.map Prod.snd

/-- The complement of a level (R43). -/
def flipLevel : Level → Level
  | .low => .high
  | .high => .low

/-- The raw value of the complementary trace: 0 and 1 exchanged, every other value as it is (R43). -/
def flipRaw (raw : Nat) : Nat :=
  match raw with
  | 0 => 1
  | 1 => 0
  | n => n

/-- The same inputs on the complementary trace. -/
def flipInputs (e : Inputs) : Inputs := { e with lineIn := flipRaw e.lineIn }

end Sys2Proof.Machine
end

