-- ==== Sys2Proof/Certificates/Slice0/Obligations.lean ====
section
/-! DEFINITION. What is stated of the block, each statement with the rule of spec/ it comes from. -/

open Sys2Proof Sys2Proof.Machine

/-! ## Terms of the statements -/

namespace Sys2Proof.Machine

/-- No RESET and no accepted START at this edge: the phase's own operation is performed (R170). -/
def noCommand (s : State) : Prop :=
  s.now.rst = false ∧ (s.now.start = true → acceptsStart s.phase = false)

/-- No RESET at any of the next `n` edges. -/
def noResetFor (n : Nat) (s : State) : Prop := ∀ k, k < n → (s.inputsAt k).rst = false

/-- What the line and the delay ports show after `k` edges. -/
def lineAfter (k : Nat) (s : State) : Option (Direction × Level × Option DelayRequest) :=
  match runEdges k s with
  | .next t => some (t.lineOe, t.lineOut, t.dly)
  | .fault _ => none
  | .refused _ => none

/-- The tick operations that need a level. -/
def levelTicks : List Instr := [.sFirst, .sSame, .sTimeout, .sEdge, .sCap]

/-- The eight bits of a byte, most significant first (R87). -/
def bitsOfByte (b : Byte) : List Bool :=
  [b.getLsbD 7, b.getLsbD 6, b.getLsbD 5, b.getLsbD 4, b.getLsbD 3, b.getLsbD 2, b.getLsbD 1, b.getLsbD 0]

/-- R88: `FRAME(p0 p1 p2 p3 p4; a, b, lo, s, l)`. -/
def frameSequence (p : Payload) (a b lo s l : Byte) : List Byte :=
  [a, b] ++ (p.bytes.flatMap bitsOfByte).flatMap fun t => [lo, if t then l else s]

/-- How many bits byte `k` of the payload has received when `n` bits have been accepted (R56). -/
def bitsInByte (n k : Nat) : Nat := min 8 (n - 8 * k)

end Sys2Proof.Machine

/-! ## Encoding -/

/-- Words written out from R70, R74, R76 and R77, and the words that are no operation (R76, R77, R86). -/
def Obligations.SampleWordsDecode : Prop :=
  decode ⟨true, false⟩ .obs 0x0311 = .ok (.data 3 17) ∧
    decode ⟨false, true⟩ .obs 0x0311 = .ok (.dataSaturated 3 17) ∧
    decode ⟨false, false⟩ .obs 0x020C = .ok (.cal 12) ∧
    decode ⟨false, false⟩ .obs 0x0114 = .ok (.skip 20) ∧
    decode ⟨false, false⟩ .obs 0x500C = .ok (.ref 80 12) ∧
    decode ⟨false, false⟩ .sc 0b00110 = .ok .sTimeout ∧
    decode ⟨false, false⟩ .sc 0b00011 = .ok .sCap ∧
    decode ⟨false, false⟩ .sc 0b01111 = .ok .sFirst ∧
    decode ⟨false, false⟩ .ph 0b1000 = .ok .w8Listen ∧
    decode ⟨false, false⟩ .ph 0b1011 = .ok .validate ∧
    decode ⟨true, false⟩ .cmd 0b01 = .ok .start ∧
    decode ⟨false, false⟩ .cmd 0b01 = .ok .startIgnored ∧
    decode ⟨false, false⟩ .cmd 0b11 = .ok .reset ∧
    decode ⟨false, false⟩ .cmd 0b00 = .error .noCommand ∧
    decode ⟨false, false⟩ .ph 0b1001 = .error .sampleNeedsConditionWord ∧
    decode ⟨false, false⟩ .ph 0b1111 = .error .unusedPhaseCode ∧
    decode ⟨false, false⟩ .sc 0b100000 = .error .tooWide

/-- Every well-formed operation, under the condition of its row, is read back from its own word, every operand at every value. -/
def Obligations.DecodeOfEncodeIsTheInstruction : Prop :=
  ∀ (c : Cond) (i : Instr), i.wellFormed = true → c.admits i = true →
    decode c (encode i).1 (encode i).2 = .ok i

/-- The decoder answers only well-formed operations whose row's condition holds, of the word's own format; no bit of a phase
or observation word is dropped. -/
def Obligations.DecodedInstructionIsWellFormed : Prop :=
  ∀ (c : Cond) (f : Format) (w : OpWord) (i : Instr), decode c f w = .ok i →
    i.wellFormed = true ∧ c.admits i = true ∧ (encode i).1 = f ∧ (f = .ph ∨ f = .obs → (encode i).2 = w)

/-- R73, R75, R76: the decoder is the opcode table, its rows tried in order, the first match taken; the six rows of format SC
are disjoint and cover all 32 words, and with `first` set `lastcnt` is 0. -/
def Obligations.DecodeIsTheFirstMatchingRow : Prop :=
  (∀ (c : Cond) (f : Format) (w : OpWord), w.toNat < 2 ^ f.width →
      (decode c f w).toOption = (firstRow c f w).map fun r => r.build w) ∧
    (∀ (c : Cond) (w : OpWord), w.toNat < 32 →
      (opcodeRows.filter fun r => r.matchesWord c .sc w).length = 1) ∧
    ∀ s : State, Inv s → s.phase = .sample → condFirst s = true → condLastCnt s = false

/-- R72, the class column: the class is a function of the index alone, tested in the rule's order. -/
def Obligations.ObservationClassFollowsTheIndex : Prop :=
  ∀ (c : Cond) (i : Index) (d : Byte),
    decode c .obs (obsWord i d) = .ok
      (if i = 2 then .cal d
      else if i = 1 then .skip d
      else if i.getLsbD 0 = true then (if c.frameFull = true then .dataSaturated i d else .data i d)
      else .ref i d)

/-! ## The step -/

/-- Where the presented word decodes, the step is that operation, after the delay ports are cleared (log entry 4) and before the
edge's inputs are spent (log entry 1). -/
def Obligations.StepRunsTheDecodedInstruction : Prop :=
  ∀ (s : State) (f : Format) (w : OpWord) (i : Instr), fetch s = .word f w →
    decode (condOf s) f w = .ok i → step s = closed (exec i (openEdge s))

/-- No word the block presents is refused by the decoder, in any state. -/
def Obligations.EveryFetchedWordDecodes : Prop :=
  ∀ (s : State) (f : Format) (w : OpWord), fetch s = .word f w →
    ∃ i, decode (condOf s) f w = .ok i ∧ i.wellFormed = true

/-- R170: the words, the decoder and the dispatch together are the rule's `Step()`, in every state. openEdge and closed are the
model's choice (log entries 4 and 1). -/
def Obligations.StepIsResetStartOrThePhaseOperation : Prop :=
  ∀ s : State, step s =
    closed (if s.now.rst = true then exec .reset (openEdge s)
      else if s.now.start = true ∧ (s.phase = .idle ∨ s.phase = .done) then exec .start (openEdge s)
      else phaseOperation (openEdge s))

/-- "never a crash or infinite loop" (R116), the first half: from every state of the invariant a step answers a next state. -/
def Obligations.StepNeverStopsUnderTheInvariant : Prop :=
  ∀ s : State, Inv s → ∃ t, step s = .next t

/-- The invariant holds after reset. -/
def Obligations.ResetStateMeetsTheInvariant : Prop := Inv State.reset

/-- R46 and the rules Inv names: every step keeps the invariant, from every state that has it. Its clause on the delay request
is the model's choice (log entry 4). -/
def Obligations.StepKeepsTheInvariant : Prop :=
  ∀ s t : State, Inv s → step s = .next t → Inv t

/-- R46, clause by clause, in every state that a run from reset reaches, whatever the configuration (R7) and whatever the
environment and the host do at each edge. -/
def Obligations.RangesHoldInEveryReachableState : Prop :=
  ∀ (c : Config) (es : List Inputs) (n : Nat) (s : State), c.Ok →
    runEdges n { State.reset with cfg := c, pending := es } = .next s →
    (s.phase = .sample ∨ s.phase = .fatal ∨ afterSample s.phase = true → s.obsLen = s.widx ∧ s.widx.toNat ≤ c.maxObs) ∧
    s.ridx.toNat ≤ s.obsLen.toNat ∧ s.bitCount.toNat ≤ 40 ∧ s.cnt.toNat ≤ c.ceil - 1 ∧
    (∀ i v, memRead s i = .next v → v.toNat ≤ c.ceil - 1) ∧
    (∀ k v, s.bitCount.toNat / 8 < k → s.payload.bytes[k]? = some v → v = 0) ∧
    (s.bitCount.toNat < 40 → ∀ v, s.payload.bytes[s.bitCount.toNat / 8]? = some v → v.toNat < 2 ^ (s.bitCount.toNat % 8)) ∧
    s.bitCount.toNat ≤ (s.ridx.toNat - 2) / 2 ∧ (c.maxObs = 82 → s.bitCount = 40 → s.obsLen = 82)

/-- R175: the complete transition relation of `phase`, in every state. -/
def Obligations.PhaseFollowsTheTransitionTable : Prop :=
  ∀ s t : State, step s = .next t → t.phase = nextPhase s

/-- The model's own fields: a step spends one edge's inputs, counts one edge and writes no parameter. -/
def Obligations.StepSpendsOneEdge : Prop :=
  ∀ s t : State, step s = .next t →
    t.cfg = s.cfg ∧ t.edge = s.edge + 1 ∧ t.pending = s.pending.tail

/-! ## Commands and the phases in which nothing happens -/

/-- R171: every register at its "after RESET" value of R45, no entry with a value, from any phase; and the only way out of
FATAL. -/
def Obligations.ResetLoadsTheResetValues : Prop :=
  (∀ s : State, exec .reset s = .next
      { phase := .idle, widx := 0, ridx := 0, obsLen := 0, cnt := 0, held := .low, heldValid := false,
        lineOe := .input, lineOut := .high, obs := [], ref := 0, maxHigh := 0, bitCount := 0,
        payload := ⟨0, 0, 0, 0, 0⟩, timeout := false, capHit := false, complete := false, csumOk := false,
        success := false, done := false, fatal := false, status := .incompleteFrame, csumCalc := 0, humX10 := 0,
        tempNeg := false, tempMagX10 := 0, fatalValue := 0,
        dly := s.dly, pending := s.pending, edge := s.edge, cfg := s.cfg }) ∧
    (∀ s : State, s.now.rst = true → step s = closed (exec .reset (openEdge s))) ∧
    (∀ (s t : State) (a : Nat), exec .reset s = .next t → Memory.read t.obs a = none) ∧
    ∀ s t : State, s.phase = .fatal → step s = .next t → t.phase ≠ .fatal → s.now.rst = true

/-- R172: every register at its "after START" value of R45, the line registers as they were, accepted in IDLE and DONE. -/
def Obligations.StartLoadsTheStartValues : Prop :=
  (∀ s : State, exec .start s = .next
      { phase := .wDirOut, widx := 0, ridx := 0, obsLen := 0, cnt := 0, held := .low, heldValid := false,
        lineOe := s.lineOe, lineOut := s.lineOut, obs := [], ref := 0, maxHigh := 0, bitCount := 0,
        payload := ⟨0, 0, 0, 0, 0⟩, timeout := false, capHit := false, complete := false, csumOk := false,
        success := false, done := false, fatal := false, status := .incompleteFrame, csumCalc := 0, humX10 := 0,
        tempNeg := false, tempMagX10 := 0, fatalValue := 0,
        dly := s.dly, pending := s.pending, edge := s.edge, cfg := s.cfg }) ∧
    (∀ (s t : State) (a : Nat), exec .start s = .next t → Memory.read t.obs a = none) ∧
    ∀ s : State, s.now.rst = false → s.now.start = true → (s.phase = .idle ∨ s.phase = .done) →
      step s = closed (exec .start (openEdge s))

/-- R173: START elsewhere has no effect of its own, the phase's operation proceeds as if `start` were 0, and nothing is
queued. -/
def Obligations.IgnoredStartLeavesThePhaseOperation : Prop :=
  (∀ s : State, s.now.rst = false → s.phase ≠ .idle → s.phase ≠ .done →
      step { s with pending := { s.now with start := false } :: s.pending.tail } = step s) ∧
    (∀ s : State, s.now.rst = false → s.now.start = true → s.phase ≠ .idle → s.phase ≠ .done →
      step s = closed (exec .startIgnored (openEdge s))) ∧
    (∀ (s : State) (f : Format) (w : OpWord) (i : Instr), fetchPhase s = .word f w →
      decode (condOf s) f w = .ok i → exec .startIgnored s = exec i s) ∧
    ∀ s : State, Inv s → ∃ t, exec .startIgnored s = .next t

/-- R174: in IDLE, DONE and FATAL with no accepted command, in a hold with `dly_done = 0` and in SAMPLE with `tick = 0`, no
register changes. -/
def Obligations.NothingHappensWithoutACause : Prop :=
  (∀ s : State, exec .nopIdle s = .next s ∧ exec .nopDone s = .next s ∧ exec .nopFatal s = .next s) ∧
    ∀ s : State, noCommand s →
      (s.phase = .idle ∨ s.phase = .done ∨ s.phase = .fatal ∨
        ((s.phase = .wHighHold ∨ s.phase = .wLowHold ∨ s.phase = .wRelHold) ∧ s.now.dlyDone = false) ∨
        (s.phase = .sample ∧ s.now.tick = false)) →
      ∃ t, step s = .next t ∧ SameRegisters s t

/-- R221: START gives every register an exchange reads its reset value, so an exchange started from DONE is the one started
from IDLE after RESET. -/
def Obligations.StartFromDoneIsStartAfterReset : Prop :=
  ∀ s : State, Inv s → s.phase = .done →
    ∃ r t, exec .reset s = .next r ∧ r.phase = .idle ∧ exec .start r = .next t ∧ exec .start s = .next t ∧
      t = { r with phase := .wDirOut }

/-! ## The fatal stop -/

/-- R196: the entry, in the operation and in the step, and what it leaves; the step clears the delay ports (log entry 4). -/
def Obligations.FatalStopIsPrecise : Prop :=
  (∀ s : State, exec .sFatal s =
      .next { s with fatal := true, fatalValue := s.now.lineIn, lineOe := .input, phase := .fatal }) ∧
    ∀ s : State, s.now.rst = false → s.phase = .sample → s.now.tick = true →
      s.now.lineIn ≠ 0 → s.now.lineIn ≠ 1 →
      step s = .next (closeEdge
        { s with dly := none, fatal := true, fatalValue := s.now.lineIn, lineOe := .input, phase := .fatal })

/-- R192: FatalAbstractionError is raised only by S_FATAL, only in SAMPLE, only at a tick, only on a sample that is neither 0
nor 1, and the sample is recorded. -/
def Obligations.OnlyAnInvalidSampleRaisesFatal : Prop :=
  ∀ s t : State, step s = .next t → s.phase ≠ .fatal → t.phase = .fatal →
    s.now.rst = false ∧ s.phase = .sample ∧ s.now.tick = true ∧ s.now.lineIn ≠ 0 ∧ s.now.lineIn ≠ 1 ∧
      step s = closed (exec .sFatal (openEdge s)) ∧ t.fatalValue = s.now.lineIn

/-- R197: no return from FATAL but RESET, START ignored, no second error; after RESET as after power-on. -/
def Obligations.FatalIsLeftOnlyByReset : Prop :=
  ∀ s : State, s.phase = .fatal → ∃ t, step s = .next t ∧
    (s.now.rst = false → SameRegisters s t) ∧ (s.now.rst = true → SameRegisters State.reset t)

/-- R200, its five points in order. -/
def Obligations.PriorityOfSimultaneousConditions : Prop :=
  (∀ s t : State, s.phase = .sample → s.now.rst = false → s.now.tick = true →
      s.now.lineIn ≠ 0 → s.now.lineIn ≠ 1 → step s = .next t →
      t.phase = .fatal ∧ t.timeout = s.timeout ∧ t.capHit = s.capHit ∧ t.obs = s.obs) ∧
    (∀ s t : State, s.phase = .fatal → s.now.rst = false → step s = .next t →
      t.phase ≠ .validate ∧ t.status = s.status ∧ t.done = s.done) ∧
    (∀ s t : State, s.bitCount.toNat < 40 → exec .validate s = .next t → t.status = .incompleteFrame) ∧
    (∀ s : State, Inv s → ¬ (s.timeout = true ∧ s.capHit = true)) ∧
    ∀ s : State, s.now.rst = true → ∃ t, step s = .next t ∧ t.phase = .idle ∧ t.fatal = false

/-- The five tick operations that need a level, performed on a sample that is none, take the fatal stop: the model's choice
(log entry 5), from R108's "the check is made on every sample"; no step performs them so. -/
def Obligations.LevelTicksOnAnInvalidSampleStopFatally : Prop :=
  ∀ (s : State) (i : Instr), i ∈ levelTicks → s.now.lineIn ≠ 0 → s.now.lineIn ≠ 1 →
    exec i s = .next { s with fatal := true, fatalValue := s.now.lineIn, lineOe := .input, phase := .fatal }

/-! ## Wake-up -/

/-- R100, R101, R103, R105, R107, their pseudocode: the line actions of W1, W2, W4, W6 and W8 and the delays they request,
nothing else changed. -/
def Obligations.WakeUpDrivesTheLine : Prop :=
  ∀ s : State,
    exec .w1DirOut s = .next { s with lineOe := .output, phase := .wHigh } ∧
    exec .w2DriveHigh s =
      .next { s with lineOut := .high, dly := some ⟨.timeUnit, s.cfg.tIdleHigh⟩, phase := .wHighHold } ∧
    exec .w4DriveLow s =
      .next { s with lineOut := .low, dly := some ⟨.timeUnit, s.cfg.tStartLow⟩, phase := .wLowHold } ∧
    exec .w6DriveRel s =
      .next { s with lineOut := .high, dly := some ⟨.microTimeUnit, s.cfg.tReleaseHigh⟩, phase := .wRelHold } ∧
    exec .w8Listen s =
      .next { s with lineOe := .input, widx := 0, cnt := 0, heldValid := false, phase := .sample }

/-- R102, R104, R106, their pseudocode: a hold ends at `dly_done = 1` and changes the phase alone. -/
def Obligations.HoldsWaitForTheDelay : Prop :=
  ∀ s : State,
    exec .w3HoldHigh s = .next (if s.now.dlyDone = true then { s with phase := .wLow } else s) ∧
    exec .w5HoldLow s = .next (if s.now.dlyDone = true then { s with phase := .wRel } else s) ∧
    exec .w7HoldRel s = .next (if s.now.dlyDone = true then { s with phase := .wListen } else s)

/-- R230 and 95_test_vectors.md T54: from W_DIR_OUT with every delay answered, the eight steps show the line and the requests in
this order, and the block then samples. That a request stands for one edge is the model's choice (log entry 4). -/
def Obligations.WakeUpSequenceIsInOrder : Prop :=
  ∀ s : State, s.phase = .wDirOut → s.lineOut = .high → noResetFor 8 s →
    (s.inputsAt 2).dlyDone = true → (s.inputsAt 4).dlyDone = true → (s.inputsAt 6).dlyDone = true →
    lineAfter 1 s = some (.output, .high, none) ∧
    lineAfter 2 s = some (.output, .high, some ⟨.timeUnit, s.cfg.tIdleHigh⟩) ∧
    lineAfter 3 s = some (.output, .high, none) ∧
    lineAfter 4 s = some (.output, .low, some ⟨.timeUnit, s.cfg.tStartLow⟩) ∧
    lineAfter 5 s = some (.output, .low, none) ∧
    lineAfter 6 s = some (.output, .high, some ⟨.microTimeUnit, s.cfg.tReleaseHigh⟩) ∧
    lineAfter 7 s = some (.output, .high, none) ∧
    lineAfter 8 s = some (.input, .high, none) ∧
    ∃ t, runEdges 8 s = .next t ∧ t.phase = .sample

/-- R238: no register holds a hold time or the tick period and no operation compares anything with them: another choice of the
four changes the delay request alone. -/
def Obligations.RealTimeParametersAreNeverCompared : Prop :=
  ∀ (s t : State) (c : Config), c.maxObs = s.cfg.maxObs → c.ceil = s.cfg.ceil → step s = .next t →
    ∃ d, step { s with cfg := c } = .next { t with dly := d, cfg := c }

/-! ## Tick operations -/

/-- R114: one of the six operations per tick, chosen as `SampleTick()` chooses; nothing without a tick. -/
def Obligations.SampleTickChoosesTheOperation : Prop :=
  ∀ s : State, s.phase = .sample → s.now.rst = false →
    (s.now.tick = false → ∃ t, step s = .next t ∧ SameRegisters s t) ∧
    (s.now.tick = true → step s = closed (exec
      (if s.now.lineIn ≠ 0 ∧ s.now.lineIn ≠ 1 then .sFatal
      else if s.heldValid = false then .sFirst
      else if s.now.lineIn = levelRaw s.held then
        (if s.cnt.toNat + 1 = s.cfg.ceil then .sTimeout else .sSame)
      else if s.widx.toNat + 1 = s.cfg.maxObs then .sCap
      else .sEdge) (openEdge s)))

/-- R109, R110, R111, their pseudocode: S_FIRST, S_SAME and S_TIMEOUT on a valid sample, nothing else changed; S_TIMEOUT records
nothing. -/
def Obligations.TickOperationsWithinAnInterval : Prop :=
  ∀ (s : State) (l : Level), s.now.lineIn = levelRaw l →
    exec .sFirst s = .next { s with held := l, heldValid := true, cnt := 1 } ∧
    exec .sSame s = .next { s with cnt := s.cnt + 1 } ∧
    exec .sTimeout s = .next { s with timeout := true, cnt := 0, phase := .decode }

/-- R112, R113, R51, their pseudocode: S_EDGE and S_CAP record `cnt` at `widx`, count the observation and begin an interval at
the sample; every other entry reads as before, and nothing else changes. -/
def Obligations.EdgesRecordTheInterval : Prop :=
  ∀ (s : State) (l : Level), s.now.lineIn = levelRaw l → s.widx.toNat < s.cfg.maxObs →
    ∃ m : List Host.Cell,
      (∀ a, Memory.read m a = if a = s.widx.toNat then some s.cnt else Memory.read s.obs a) ∧
      exec .sEdge s =
        .next { s with obs := m, obsLen := s.widx + 1, widx := s.widx + 1, held := l, cnt := 0 } ∧
      exec .sCap s =
        .next { s with obs := m, obsLen := s.widx + 1, widx := s.widx + 1, held := l, cnt := 0,
                       capHit := true, phase := .decode }

/-- R50: there is no entry at or above `MAX_OBS`, and the two storing operations stop there by name (log entry 12). -/
def Obligations.NoEntryIsWrittenAboveTheCap : Prop :=
  ∀ (s : State) (l : Level), s.now.lineIn = levelRaw l → s.cfg.maxObs ≤ s.widx.toNat →
    exec .sEdge s = .fault (.noSuchEntry s.widx.toNat) ∧ exec .sCap s = .fault (.noSuchEntry s.widx.toNat)

/-- R115, one run: `n` more ticks at the held level below the ceiling and then one tick at the other level record the count, and
the sample that ends the interval is counted in neither. -/
def Obligations.RunIsRecordedWithItsLength : Prop :=
  ∀ (s : State) (n : Nat) (l : Level), Inv s → s.phase = .sample → s.heldValid = true → s.held = l →
    noResetFor (n + 1) s → (∀ k, k < n + 1 → (s.inputsAt k).tick = true) →
    (∀ k, k < n → (s.inputsAt k).lineIn = levelRaw l) → (s.inputsAt n).lineIn = levelRaw (flipLevel l) →
    s.cnt.toNat + n < s.cfg.ceil → s.widx.toNat + 1 < s.cfg.maxObs →
    ∃ t, runEdges (n + 1) s = .next t ∧ t.phase = .sample ∧
      memRead t s.widx.toNat = .next (s.cnt + BitVec.ofNat 8 n) ∧
      t.obsLen.toNat = s.widx.toNat + 1 ∧ t.widx = t.obsLen ∧ t.held = flipLevel l ∧ t.cnt = 0 ∧
      ∀ a, a < s.widx.toNat → memRead t a = memRead s a

/-- R116: with no RESET, SAMPLE is left at the latest by the tick numbered `MAX_OBS * CEIL`, for every line trace. -/
def Obligations.SamplingAlwaysEnds : Prop :=
  ∀ (s : State) (n : Nat), Inv s → s.phase = .sample → noResetFor n s →
    s.cfg.maxObs * s.cfg.ceil ≤ (List.range n).countP (fun k => (s.inputsAt k).tick) →
    ∃ k t, k ≤ n ∧ runEdges k s = .next t ∧ (t.phase = .decode ∨ t.phase = .fatal)

/-- R43 (2): two traces that are complements of each other give the same observations: in SAMPLE a step of the complement is the
complement of the step, and only `held` differs. -/
def Obligations.ComplementaryTracesRecordTheSame : Prop :=
  ∀ (s t : State) (e : Inputs) (es : List Inputs) (h : Level), s.phase = .sample → s.pending = e :: es →
    e.rst = false → (s.heldValid = true → h = flipLevel s.held) → step s = .next t →
    ∃ h' : Level, step { s with held := h, pending := flipInputs e :: es.map flipInputs } =
        .next { t with held := h', pending := es.map flipInputs } ∧
      (t.heldValid = true → h' = flipLevel t.held)

/-- R57, R114 and 95_test_vectors.md T56: the line is read at a tick in SAMPLE and nowhere else. -/
def Obligations.LineIsReadOnlyAtATickInSample : Prop :=
  ∀ (s : State) (e : Inputs) (es : List Inputs) (v : Nat), s.pending = e :: es →
    (s.phase ≠ .sample ∨ e.tick = false ∨ e.rst = true) →
    step { s with pending := { e with lineIn := v } :: es } = step s

/-! ## The observation buffer -/

/-- R52: a read is defined exactly below `obs_len` under the invariant, and is a stop, never a value, at and above it in every
state; at or above `MAX_OBS` the stop is the model's choice (log entry 12). -/
def Obligations.ReadIsDefinedBelowObsLenOnly : Prop :=
  (∀ (s : State) (i : Nat), Inv s → i < s.obsLen.toNat →
      ∃ v, memRead s i = .next v ∧ Memory.read s.obs i = some v ∧ v.toNat < s.cfg.ceil) ∧
    (∀ (s : State) (i : Nat), s.obsLen.toNat ≤ i → i < s.cfg.maxObs → memRead s i = .refused (.unrecordedEntry i)) ∧
    ∀ (s : State) (i : Nat), s.cfg.maxObs ≤ i → memRead s i = .fault (.noSuchEntry i)

/-- R51, R62: an entry is immutable once recorded: until the next START or RESET every recorded entry reads the same, and the
only entry that takes a value is the one at `widx`. -/
def Obligations.EntryIsImmutableOnceRecorded : Prop :=
  ∀ (s t : State) (a : Nat), Inv s → noCommand s → step s = .next t →
    (a < s.obsLen.toNat → memRead t a = memRead s a) ∧
    (a ≠ s.widx.toNat → Memory.read t.obs a = Memory.read s.obs a)

/-- R29, R57: the operations that store nothing leave every entry and `obs_len` as they were. -/
def Obligations.NonStoringOperationsKeepEveryEntry : Prop :=
  ∀ (i : Instr) (s t : State), i ≠ .reset → i ≠ .start → i ≠ .startIgnored → i ≠ .sEdge → i ≠ .sCap →
    exec i s = .next t → (∀ a, Memory.read t.obs a = Memory.read s.obs a) ∧ t.obsLen = s.obsLen

/-- R20, R29: the sampler's operations leave the decoder's registers, the validator's flags and the result fields alone, and the
decoder's leave the sampler's registers, the line and the buffer alone. -/
def Obligations.SamplerAndDecoderShareOnlyTheBuffer : Prop :=
  ∀ (i : Instr) (s t : State), exec i s = .next t →
    (i ∈ [Instr.w1DirOut, .w2DriveHigh, .w3HoldHigh, .w4DriveLow, .w5HoldLow, .w6DriveRel, .w7HoldRel, .w8Listen,
        .sFatal, .sFirst, .sSame, .sTimeout, .sEdge, .sCap] →
      t = { s with phase := t.phase, widx := t.widx, cnt := t.cnt, held := t.held, heldValid := t.heldValid,
                   lineOe := t.lineOe, lineOut := t.lineOut, obs := t.obs, obsLen := t.obsLen,
                   timeout := t.timeout, capHit := t.capHit, fatal := t.fatal, fatalValue := t.fatalValue,
                   dly := t.dly }) ∧
    ((encode i).1 = .obs ∨ i ∈ [Instr.endSeq, .validate, .convert] →
      t = { s with phase := t.phase, ridx := t.ridx, ref := t.ref, maxHigh := t.maxHigh, bitCount := t.bitCount,
                   payload := t.payload, complete := t.complete, csumOk := t.csumOk, success := t.success,
                   done := t.done, status := t.status, csumCalc := t.csumCalc, humX10 := t.humX10,
                   tempNeg := t.tempNeg, tempMagX10 := t.tempMagX10 })

/-! ## The decoder -/

/-- R131, R132, R133, R135, R136, their pseudocode: REF, CAL, SKIP, a saturated DATA and END, nothing else changed. -/
def Obligations.ObservationsWithoutABit : Prop :=
  ∀ (s : State) (i : Index) (d : Byte),
    exec (.ref i d) s = .next { s with ref := d, ridx := s.ridx + 1 } ∧
    exec (.cal d) s = .next { s with maxHigh := d, ref := d, ridx := s.ridx + 1 } ∧
    exec (.skip d) s = .next { s with ridx := s.ridx + 1 } ∧
    exec (.dataSaturated i d) s = .next { s with ridx := s.ridx + 1 } ∧
    exec .endSeq s = .next { s with phase := .validate }

/-- R134: one bit, 1 when `d >= ref` (a tie gives 1), shifted in at bit 0 of byte `bit_count div 8`; the other bytes and every
other register unchanged. With `bit_count` at 40 or above only `ridx` changes (R135; above 40 the model's choice, log entry
10). -/
def Obligations.DataAppendsOneBit : Prop :=
  ∀ (s : State) (i : Index) (d : Byte),
    (s.bitCount.toNat < 40 → ∃ p : Payload,
      p.bytes = s.payload.bytes.mapIdx (fun k v =>
        if k = s.bitCount.toNat / 8 then BitVec.ofNat 8 (2 * v.toNat + (if s.ref ≤ d then 1 else 0)) else v) ∧
      exec (.data i d) s = .next { s with payload := p, bitCount := s.bitCount + 1, ridx := s.ridx + 1 }) ∧
    (40 ≤ s.bitCount.toNat → exec (.data i d) s = .next { s with ridx := s.ridx + 1 })

/-- R130: in DECODE a step consumes the entry at `ridx` by the one pure function of the fold and advances `ridx`, or performs
END; nothing but the decoder's registers, `ridx` and the phase changes. -/
def Obligations.DecodeStepIsTheFoldFunction : Prop :=
  ∀ s : State, s.phase = .decode → s.now.rst = false →
    (∀ d, s.ridx ≠ s.obsLen → memRead s s.ridx.toNat = .next d →
      ∃ t, step s = .next t ∧ decoderState t = decoderFunction (decoderState s) s.ridx.toNat d ∧
        SameRegisters { s with ref := t.ref, maxHigh := t.maxHigh, bitCount := t.bitCount, payload := t.payload,
                               ridx := s.ridx + 1 } t) ∧
    (s.ridx = s.obsLen → ∃ t, step s = .next t ∧ SameRegisters { s with phase := .validate } t)

/-- R130, R53: the decoder's registers when the sequence is exhausted are the left fold of the pure function over it, from the
START values. -/
def Obligations.DecodingIsAFoldOverTheSequence : Prop :=
  ∀ s : State, Inv s → s.phase = .decode → s.ridx = 0 → decoderState s = DecoderState.initial →
    noResetFor s.obsLen.toNat s →
    ∃ t, runEdges s.obsLen.toNat s = .next t ∧ t.phase = .decode ∧ t.ridx = t.obsLen ∧
      decoderState t = decoderFold DecoderState.initial 0 (durations s)

/-- R137 with R54, R56: the closed form of the fold. -/
def Obligations.DecoderClosedForm : Prop :=
  ∀ xs : List Byte,
    let d := decoderFold DecoderState.initial 0 xs
    d.bitCount.toNat = min 40 ((xs.length - 2) / 2) ∧
    (∀ m k j x y, m < d.bitCount.toNat → k = m / 8 → j = bitsInByte d.bitCount.toNat k - 1 - m % 8 →
      xs[2 * m + 2]? = some x → xs[2 * m + 3]? = some y →
      ∃ v, d.payload.bytes[k]? = some v ∧ v.getLsbD j = decide (x ≤ y)) ∧
    (∀ k v, d.payload.bytes[k]? = some v → v.toNat < 2 ^ bitsInByte d.bitCount.toNat k) ∧
    (xs = [] → d.ref = 0) ∧
    (xs ≠ [] → xs[2 * ((xs.length - 1) / 2)]? = some d.ref) ∧
    d.maxHigh = (xs[2]?).getD 0

/-- R79, R88: from `FRAME(p0 p1 p2 p3 p4; a, b, lo, s, l)` with `s < lo <= l` the decoder recovers exactly the five bytes,
whatever `a` and `b` are. -/
def Obligations.FrameIsRecoveredExactly : Prop :=
  ∀ (p : Payload) (a b lo s l : Byte), s < lo → lo ≤ l →
    (frameSequence p a b lo s l).length = 82 ∧
    decoderFold DecoderState.initial 0 (frameSequence p a b lo s l) = ⟨lo, lo, 40, p⟩

/-- R54, R55: the bits of a complete frame in the order of acceptance, the first one the most significant bit of the first byte;
the payload as one 40-bit number `F`, `F[39 - n] = b_n`, and the 16-bit fields in it, high byte first. -/
def Obligations.FrameBitsStandInOrderOfAcceptance : Prop :=
  (∀ (xs : List Byte) (n : Nat) (x y : Byte), 82 ≤ xs.length → n < 40 → xs[2 * n + 2]? = some x → xs[2 * n + 3]? = some y →
      (decoderFold DecoderState.initial 0 xs).payload.frame.getLsbD (39 - n) = decide (x ≤ y)) ∧
    (∀ p : Payload, (∀ k v, p.bytes[k]? = some v → p.frame.extractLsb' (8 * (4 - k)) 8 = v) ∧
      p.frame.extractLsb' 24 16 = p.humidityHigh ++ p.humidityLow ∧
      p.frame.extractLsb' 8 16 = p.temperatureHigh ++ p.temperatureLow) ∧
    ∀ s t : State, exec .convert s = .next t → t.humX10 = s.payload.frame.extractLsb' 24 16 ∧
      t.tempNeg = s.payload.frame.getLsbD 23 ∧ t.tempMagX10 = s.payload.frame.extractLsb' 8 15

/-- R138: only the order of durations matters. A map that keeps the order of the sequence's durations changes no bit; so neither
does multiplying every duration by one positive factor and adding one constant, as long as every result is at most 254. -/
def Obligations.OnlyTheOrderOfDurationsMatters : Prop :=
  (∀ (f : Byte → Byte) (xs : List Byte), (∀ a ∈ xs, ∀ b ∈ xs, (a ≤ b ↔ f a ≤ f b)) →
      (decoderFold DecoderState.initial 0 (xs.map f)).payload = (decoderFold DecoderState.initial 0 xs).payload ∧
      (decoderFold DecoderState.initial 0 (xs.map f)).bitCount = (decoderFold DecoderState.initial 0 xs).bitCount) ∧
    ∀ (factor constant : Nat) (xs : List Byte), 0 < factor → (∀ a ∈ xs, factor * a.toNat + constant ≤ 254) →
      let ys := xs.map fun a => BitVec.ofNat 8 (factor * a.toNat + constant)
      (decoderFold DecoderState.initial 0 ys).payload = (decoderFold DecoderState.initial 0 xs).payload ∧
      (decoderFold DecoderState.initial 0 ys).bitCount = (decoderFold DecoderState.initial 0 xs).bitCount

/-- R177: an exchange in DECODE reaches DONE in exactly the remaining observations and three more operations, with no RESET. -/
def Obligations.DecodeReachesDoneInObsLenPlusThree : Prop :=
  ∀ s : State, Inv s → s.phase = .decode → noResetFor (s.obsLen.toNat - s.ridx.toNat + 3) s →
    (∃ t, runEdges (s.obsLen.toNat - s.ridx.toNat + 3) s = .next t ∧ t.phase = .done ∧ t.done = true) ∧
    ∀ k t, k < s.obsLen.toNat - s.ridx.toNat + 3 → runEdges k s = .next t → t.phase ≠ .done

/-- R22: `max_high` is read by no operation: another value of it changes the next state in `max_high` alone. -/
def Obligations.MaxHighIsReadByNoOperation : Prop :=
  ∀ (s t : State) (m : Byte), step s = .next t →
    ∃ m', step { s with maxHigh := m } = .next { t with maxHigh := m' }

/-! ## VALIDATE, CONVERT and the outcome -/

/-- R150 with R151 to R154: the validator, nothing else changed. -/
def Obligations.ValidateComputesTheOutcome : Prop :=
  ∀ s : State,
    let c : Byte := BitVec.ofNat 8 (s.payload.humidityHigh.toNat + s.payload.humidityLow.toNat +
      s.payload.temperatureHigh.toNat + s.payload.temperatureLow.toNat)
    exec .validate s = .next
      { s with
        csumCalc := c
        complete := decide (40 ≤ s.bitCount.toNat)
        csumOk := decide (c = s.payload.checksum)
        success := decide (40 ≤ s.bitCount.toNat ∧ c = s.payload.checksum)
        status := if s.bitCount.toNat < 40 then .incompleteFrame
          else if c = s.payload.checksum then .success else .checksumMismatch
        phase := .convert }

/-- R151: the checksum is the natural sum of the first four bytes modulo 256; adding modulo 256 at every step gives the same, and
`payload[4]` is no part of it. -/
def Obligations.ChecksumIsTheTruncatedSum : Prop :=
  ∀ (s t : State), exec .validate s = .next t →
    t.csumCalc.toNat = (s.payload.humidityHigh.toNat + s.payload.humidityLow.toNat +
        s.payload.temperatureHigh.toNat + s.payload.temperatureLow.toNat) % 256 ∧
    t.csumCalc = s.payload.humidityHigh + s.payload.humidityLow + s.payload.temperatureHigh + s.payload.temperatureLow ∧
    ∀ (b : Byte) (u : State), exec .validate { s with payload := { s.payload with checksum := b } } = .next u →
      u.csumCalc = t.csumCalc

/-- R160, R155, R156: the conversion in the rule's arithmetic, whatever the status; nothing else changed. -/
def Obligations.ConvertComputesTheReading : Prop :=
  ∀ s : State, ∃ (h : BitVec 16) (m : BitVec 15),
    h.toNat = s.payload.humidityHigh.toNat * 256 + s.payload.humidityLow.toNat ∧
    m.toNat = s.payload.temperatureHigh.toNat % 128 * 256 + s.payload.temperatureLow.toNat ∧
    exec .convert s = .next
      { s with humX10 := h, tempNeg := decide (128 ≤ s.payload.temperatureHigh.toNat), tempMagX10 := m,
               done := true, phase := .done }

/-- R157, R158: the signed view and the exact reading, and the two zeros. -/
def Obligations.ReadingIsExactAndBounded : Prop :=
  (∀ r : Reading, -32767 ≤ r.tempX10 ∧ r.tempX10 ≤ 32767 ∧
      (r.tempNeg = true → r.tempX10 = -(r.tempMagX10.toNat : Int)) ∧
      (r.tempNeg = false → r.tempX10 = (r.tempMagX10.toNat : Int)) ∧
      r.temperatureCelsius * 10 = (r.tempX10 : Rat) ∧ r.humidityPercent * 10 = ((r.humX10.toNat : Nat) : Rat)) ∧
    ∀ h : BitVec 16, (⟨h, true, 0⟩ : Reading) ≠ ⟨h, false, 0⟩ ∧
      Reading.tempX10 ⟨h, true, 0⟩ = 0 ∧ Reading.tempX10 ⟨h, false, 0⟩ = 0

/-- R162: VALIDATE and CONVERT read no register but `payload` and `bit_count`. -/
def Obligations.OutcomeReadsOnlyPayloadAndBitCount : Prop :=
  ∀ s r t u : State, s.payload = r.payload → s.bitCount = r.bitCount →
    (exec .validate s = .next t → exec .validate r = .next u →
      t.csumCalc = u.csumCalc ∧ t.complete = u.complete ∧ t.csumOk = u.csumOk ∧ t.success = u.success ∧
        t.status = u.status) ∧
    (exec .convert s = .next t → exec .convert r = .next u →
      t.humX10 = u.humX10 ∧ t.tempNeg = u.tempNeg ∧ t.tempMagX10 = u.tempMagX10)

/-- R80, R191: when `done = 1` the status is the one its row's condition names, the host reads the matching outcome, and code 3 is
never written; a fatal stop has no outcome. -/
def Obligations.OutcomeFollowsTheStatusTable : Prop :=
  ∀ s : State, Inv s →
    (s.done = true →
      (s.status = .success ↔ 40 ≤ s.bitCount.toNat ∧ s.csumCalc = s.payload.checksum) ∧
      (s.status = .incompleteFrame ↔ s.bitCount.toNat < 40) ∧
      (s.status = .checksumMismatch ↔ 40 ≤ s.bitCount.toNat ∧ s.csumCalc ≠ s.payload.checksum) ∧
      (hostView s).outcome = some
        (if s.status = .success then .success ⟨s.humX10, s.tempNeg, s.tempMagX10⟩
        else .failure s.bitCount s.payload s.csumCalc ⟨s.humX10, s.tempNeg, s.tempMagX10⟩)) ∧
    (s.fatal = true → s.done = false ∧ (hostView s).outcome = none) ∧
    (statusCode .success = 0 ∧ statusCode .incompleteFrame = 1 ∧ statusCode .checksumMismatch = 2 ∧
      statusCode s.status ≠ 3)

/-- R37: `done = 1` exactly in DONE, and then an outcome exists; `fatal = 1` exactly in FATAL, `busy` in every other phase but
IDLE; kept by every step because Inv is. -/
def Obligations.ProgressFlagsFollowThePhase : Prop :=
  ∀ s : State, Inv s →
    (s.done = true ↔ s.phase = .done) ∧ (s.fatal = true ↔ s.phase = .fatal) ∧
    (s.busy = true ↔ s.phase ≠ .idle ∧ s.phase ≠ .done ∧ s.phase ≠ .fatal) ∧
    ((hostView s).outcome.isSome = true ↔ s.done = true)

/-- R35: exactly one of `timeout`, `cap_hit`, `fatal` is 1 once SAMPLE has been left; none of the first two before. -/
def Obligations.ExactlyOneReasonEndsSampling : Prop :=
  ∀ s : State, Inv s →
    (s.phase = .fatal ∨ afterSample s.phase = true →
      [s.timeout, s.capHit, s.fatal].count true = 1 ∧ (s.capHit = true → s.obsLen.toNat = s.cfg.maxObs)) ∧
    (s.phase ≠ .fatal → afterSample s.phase = false → [s.timeout, s.capHit, s.fatal].count true = 0)
end

