-- ==== Sys2Proof/Laws/State.lean ====
section
/-! SUPPORT. One lemma per field per update of State, so that no proof unfolds a record update. -/

namespace Sys2Proof.Machine

/-! ### setPhase -/

@[simp] theorem setPhase_phase (p : Phase) (s : State) : (setPhase p s).phase = p := rfl
@[simp] theorem setPhase_widx (p : Phase) (s : State) : (setPhase p s).widx = s.widx := rfl
@[simp] theorem setPhase_ridx (p : Phase) (s : State) : (setPhase p s).ridx = s.ridx := rfl
@[simp] theorem setPhase_obsLen (p : Phase) (s : State) : (setPhase p s).obsLen = s.obsLen := rfl
@[simp] theorem setPhase_cnt (p : Phase) (s : State) : (setPhase p s).cnt = s.cnt := rfl
@[simp] theorem setPhase_held (p : Phase) (s : State) : (setPhase p s).held = s.held := rfl
@[simp] theorem setPhase_heldValid (p : Phase) (s : State) : (setPhase p s).heldValid = s.heldValid := rfl
@[simp] theorem setPhase_lineOe (p : Phase) (s : State) : (setPhase p s).lineOe = s.lineOe := rfl
@[simp] theorem setPhase_lineOut (p : Phase) (s : State) : (setPhase p s).lineOut = s.lineOut := rfl
@[simp] theorem setPhase_obs (p : Phase) (s : State) : (setPhase p s).obs = s.obs := rfl
@[simp] theorem setPhase_ref (p : Phase) (s : State) : (setPhase p s).ref = s.ref := rfl
@[simp] theorem setPhase_maxHigh (p : Phase) (s : State) : (setPhase p s).maxHigh = s.maxHigh := rfl
@[simp] theorem setPhase_bitCount (p : Phase) (s : State) : (setPhase p s).bitCount = s.bitCount := rfl
@[simp] theorem setPhase_payload (p : Phase) (s : State) : (setPhase p s).payload = s.payload := rfl
@[simp] theorem setPhase_timeout (p : Phase) (s : State) : (setPhase p s).timeout = s.timeout := rfl
@[simp] theorem setPhase_capHit (p : Phase) (s : State) : (setPhase p s).capHit = s.capHit := rfl
@[simp] theorem setPhase_complete (p : Phase) (s : State) : (setPhase p s).complete = s.complete := rfl
@[simp] theorem setPhase_csumOk (p : Phase) (s : State) : (setPhase p s).csumOk = s.csumOk := rfl
@[simp] theorem setPhase_success (p : Phase) (s : State) : (setPhase p s).success = s.success := rfl
@[simp] theorem setPhase_done (p : Phase) (s : State) : (setPhase p s).done = s.done := rfl
@[simp] theorem setPhase_fatal (p : Phase) (s : State) : (setPhase p s).fatal = s.fatal := rfl
@[simp] theorem setPhase_status (p : Phase) (s : State) : (setPhase p s).status = s.status := rfl
@[simp] theorem setPhase_csumCalc (p : Phase) (s : State) : (setPhase p s).csumCalc = s.csumCalc := rfl
@[simp] theorem setPhase_humX10 (p : Phase) (s : State) : (setPhase p s).humX10 = s.humX10 := rfl
@[simp] theorem setPhase_tempNeg (p : Phase) (s : State) : (setPhase p s).tempNeg = s.tempNeg := rfl
@[simp] theorem setPhase_tempMagX10 (p : Phase) (s : State) : (setPhase p s).tempMagX10 = s.tempMagX10 := rfl
@[simp] theorem setPhase_fatalValue (p : Phase) (s : State) : (setPhase p s).fatalValue = s.fatalValue := rfl
@[simp] theorem setPhase_dly (p : Phase) (s : State) : (setPhase p s).dly = s.dly := rfl
@[simp] theorem setPhase_pending (p : Phase) (s : State) : (setPhase p s).pending = s.pending := rfl
@[simp] theorem setPhase_edge (p : Phase) (s : State) : (setPhase p s).edge = s.edge := rfl
@[simp] theorem setPhase_cfg (p : Phase) (s : State) : (setPhase p s).cfg = s.cfg := rfl

/-! ### nextObservation -/

@[simp] theorem nextObservation_phase (s : State) : (nextObservation s).phase = s.phase := rfl
@[simp] theorem nextObservation_widx (s : State) : (nextObservation s).widx = s.widx := rfl
@[simp] theorem nextObservation_ridx (s : State) : (nextObservation s).ridx = s.ridx + 1 := rfl
@[simp] theorem nextObservation_obsLen (s : State) : (nextObservation s).obsLen = s.obsLen := rfl
@[simp] theorem nextObservation_cnt (s : State) : (nextObservation s).cnt = s.cnt := rfl
@[simp] theorem nextObservation_held (s : State) : (nextObservation s).held = s.held := rfl
@[simp] theorem nextObservation_heldValid (s : State) : (nextObservation s).heldValid = s.heldValid := rfl
@[simp] theorem nextObservation_lineOe (s : State) : (nextObservation s).lineOe = s.lineOe := rfl
@[simp] theorem nextObservation_lineOut (s : State) : (nextObservation s).lineOut = s.lineOut := rfl
@[simp] theorem nextObservation_obs (s : State) : (nextObservation s).obs = s.obs := rfl
@[simp] theorem nextObservation_ref (s : State) : (nextObservation s).ref = s.ref := rfl
@[simp] theorem nextObservation_maxHigh (s : State) : (nextObservation s).maxHigh = s.maxHigh := rfl
@[simp] theorem nextObservation_bitCount (s : State) : (nextObservation s).bitCount = s.bitCount := rfl
@[simp] theorem nextObservation_payload (s : State) : (nextObservation s).payload = s.payload := rfl
@[simp] theorem nextObservation_timeout (s : State) : (nextObservation s).timeout = s.timeout := rfl
@[simp] theorem nextObservation_capHit (s : State) : (nextObservation s).capHit = s.capHit := rfl
@[simp] theorem nextObservation_complete (s : State) : (nextObservation s).complete = s.complete := rfl
@[simp] theorem nextObservation_csumOk (s : State) : (nextObservation s).csumOk = s.csumOk := rfl
@[simp] theorem nextObservation_success (s : State) : (nextObservation s).success = s.success := rfl
@[simp] theorem nextObservation_done (s : State) : (nextObservation s).done = s.done := rfl
@[simp] theorem nextObservation_fatal (s : State) : (nextObservation s).fatal = s.fatal := rfl
@[simp] theorem nextObservation_status (s : State) : (nextObservation s).status = s.status := rfl
@[simp] theorem nextObservation_csumCalc (s : State) : (nextObservation s).csumCalc = s.csumCalc := rfl
@[simp] theorem nextObservation_humX10 (s : State) : (nextObservation s).humX10 = s.humX10 := rfl
@[simp] theorem nextObservation_tempNeg (s : State) : (nextObservation s).tempNeg = s.tempNeg := rfl
@[simp] theorem nextObservation_tempMagX10 (s : State) : (nextObservation s).tempMagX10 = s.tempMagX10 := rfl
@[simp] theorem nextObservation_fatalValue (s : State) : (nextObservation s).fatalValue = s.fatalValue := rfl
@[simp] theorem nextObservation_dly (s : State) : (nextObservation s).dly = s.dly := rfl
@[simp] theorem nextObservation_pending (s : State) : (nextObservation s).pending = s.pending := rfl
@[simp] theorem nextObservation_edge (s : State) : (nextObservation s).edge = s.edge := rfl
@[simp] theorem nextObservation_cfg (s : State) : (nextObservation s).cfg = s.cfg := rfl

/-! ### appendBit -/

@[simp] theorem appendBit_phase (b : Bool) (s : State) : (appendBit b s).phase = s.phase := rfl
@[simp] theorem appendBit_widx (b : Bool) (s : State) : (appendBit b s).widx = s.widx := rfl
@[simp] theorem appendBit_ridx (b : Bool) (s : State) : (appendBit b s).ridx = s.ridx := rfl
@[simp] theorem appendBit_obsLen (b : Bool) (s : State) : (appendBit b s).obsLen = s.obsLen := rfl
@[simp] theorem appendBit_cnt (b : Bool) (s : State) : (appendBit b s).cnt = s.cnt := rfl
@[simp] theorem appendBit_held (b : Bool) (s : State) : (appendBit b s).held = s.held := rfl
@[simp] theorem appendBit_heldValid (b : Bool) (s : State) : (appendBit b s).heldValid = s.heldValid := rfl
@[simp] theorem appendBit_lineOe (b : Bool) (s : State) : (appendBit b s).lineOe = s.lineOe := rfl
@[simp] theorem appendBit_lineOut (b : Bool) (s : State) : (appendBit b s).lineOut = s.lineOut := rfl
@[simp] theorem appendBit_obs (b : Bool) (s : State) : (appendBit b s).obs = s.obs := rfl
@[simp] theorem appendBit_ref (b : Bool) (s : State) : (appendBit b s).ref = s.ref := rfl
@[simp] theorem appendBit_maxHigh (b : Bool) (s : State) : (appendBit b s).maxHigh = s.maxHigh := rfl
@[simp] theorem appendBit_bitCount (b : Bool) (s : State) : (appendBit b s).bitCount = s.bitCount + 1 := rfl
@[simp] theorem appendBit_payload (b : Bool) (s : State) : (appendBit b s).payload = shiftInto s.payload (s.bitCount.toNat / 8) b := rfl
@[simp] theorem appendBit_timeout (b : Bool) (s : State) : (appendBit b s).timeout = s.timeout := rfl
@[simp] theorem appendBit_capHit (b : Bool) (s : State) : (appendBit b s).capHit = s.capHit := rfl
@[simp] theorem appendBit_complete (b : Bool) (s : State) : (appendBit b s).complete = s.complete := rfl
@[simp] theorem appendBit_csumOk (b : Bool) (s : State) : (appendBit b s).csumOk = s.csumOk := rfl
@[simp] theorem appendBit_success (b : Bool) (s : State) : (appendBit b s).success = s.success := rfl
@[simp] theorem appendBit_done (b : Bool) (s : State) : (appendBit b s).done = s.done := rfl
@[simp] theorem appendBit_fatal (b : Bool) (s : State) : (appendBit b s).fatal = s.fatal := rfl
@[simp] theorem appendBit_status (b : Bool) (s : State) : (appendBit b s).status = s.status := rfl
@[simp] theorem appendBit_csumCalc (b : Bool) (s : State) : (appendBit b s).csumCalc = s.csumCalc := rfl
@[simp] theorem appendBit_humX10 (b : Bool) (s : State) : (appendBit b s).humX10 = s.humX10 := rfl
@[simp] theorem appendBit_tempNeg (b : Bool) (s : State) : (appendBit b s).tempNeg = s.tempNeg := rfl
@[simp] theorem appendBit_tempMagX10 (b : Bool) (s : State) : (appendBit b s).tempMagX10 = s.tempMagX10 := rfl
@[simp] theorem appendBit_fatalValue (b : Bool) (s : State) : (appendBit b s).fatalValue = s.fatalValue := rfl
@[simp] theorem appendBit_dly (b : Bool) (s : State) : (appendBit b s).dly = s.dly := rfl
@[simp] theorem appendBit_pending (b : Bool) (s : State) : (appendBit b s).pending = s.pending := rfl
@[simp] theorem appendBit_edge (b : Bool) (s : State) : (appendBit b s).edge = s.edge := rfl
@[simp] theorem appendBit_cfg (b : Bool) (s : State) : (appendBit b s).cfg = s.cfg := rfl

/-! ### raiseFatal -/

@[simp] theorem raiseFatal_phase (v : Nat) (s : State) : (raiseFatal v s).phase = .fatal := rfl
@[simp] theorem raiseFatal_widx (v : Nat) (s : State) : (raiseFatal v s).widx = s.widx := rfl
@[simp] theorem raiseFatal_ridx (v : Nat) (s : State) : (raiseFatal v s).ridx = s.ridx := rfl
@[simp] theorem raiseFatal_obsLen (v : Nat) (s : State) : (raiseFatal v s).obsLen = s.obsLen := rfl
@[simp] theorem raiseFatal_cnt (v : Nat) (s : State) : (raiseFatal v s).cnt = s.cnt := rfl
@[simp] theorem raiseFatal_held (v : Nat) (s : State) : (raiseFatal v s).held = s.held := rfl
@[simp] theorem raiseFatal_heldValid (v : Nat) (s : State) : (raiseFatal v s).heldValid = s.heldValid := rfl
@[simp] theorem raiseFatal_lineOe (v : Nat) (s : State) : (raiseFatal v s).lineOe = .input := rfl
@[simp] theorem raiseFatal_lineOut (v : Nat) (s : State) : (raiseFatal v s).lineOut = s.lineOut := rfl
@[simp] theorem raiseFatal_obs (v : Nat) (s : State) : (raiseFatal v s).obs = s.obs := rfl
@[simp] theorem raiseFatal_ref (v : Nat) (s : State) : (raiseFatal v s).ref = s.ref := rfl
@[simp] theorem raiseFatal_maxHigh (v : Nat) (s : State) : (raiseFatal v s).maxHigh = s.maxHigh := rfl
@[simp] theorem raiseFatal_bitCount (v : Nat) (s : State) : (raiseFatal v s).bitCount = s.bitCount := rfl
@[simp] theorem raiseFatal_payload (v : Nat) (s : State) : (raiseFatal v s).payload = s.payload := rfl
@[simp] theorem raiseFatal_timeout (v : Nat) (s : State) : (raiseFatal v s).timeout = s.timeout := rfl
@[simp] theorem raiseFatal_capHit (v : Nat) (s : State) : (raiseFatal v s).capHit = s.capHit := rfl
@[simp] theorem raiseFatal_complete (v : Nat) (s : State) : (raiseFatal v s).complete = s.complete := rfl
@[simp] theorem raiseFatal_csumOk (v : Nat) (s : State) : (raiseFatal v s).csumOk = s.csumOk := rfl
@[simp] theorem raiseFatal_success (v : Nat) (s : State) : (raiseFatal v s).success = s.success := rfl
@[simp] theorem raiseFatal_done (v : Nat) (s : State) : (raiseFatal v s).done = s.done := rfl
@[simp] theorem raiseFatal_fatal (v : Nat) (s : State) : (raiseFatal v s).fatal = true := rfl
@[simp] theorem raiseFatal_status (v : Nat) (s : State) : (raiseFatal v s).status = s.status := rfl
@[simp] theorem raiseFatal_csumCalc (v : Nat) (s : State) : (raiseFatal v s).csumCalc = s.csumCalc := rfl
@[simp] theorem raiseFatal_humX10 (v : Nat) (s : State) : (raiseFatal v s).humX10 = s.humX10 := rfl
@[simp] theorem raiseFatal_tempNeg (v : Nat) (s : State) : (raiseFatal v s).tempNeg = s.tempNeg := rfl
@[simp] theorem raiseFatal_tempMagX10 (v : Nat) (s : State) : (raiseFatal v s).tempMagX10 = s.tempMagX10 := rfl
@[simp] theorem raiseFatal_fatalValue (v : Nat) (s : State) : (raiseFatal v s).fatalValue = v := rfl
@[simp] theorem raiseFatal_dly (v : Nat) (s : State) : (raiseFatal v s).dly = s.dly := rfl
@[simp] theorem raiseFatal_pending (v : Nat) (s : State) : (raiseFatal v s).pending = s.pending := rfl
@[simp] theorem raiseFatal_edge (v : Nat) (s : State) : (raiseFatal v s).edge = s.edge := rfl
@[simp] theorem raiseFatal_cfg (v : Nat) (s : State) : (raiseFatal v s).cfg = s.cfg := rfl

/-! ### openEdge -/

@[simp] theorem openEdge_phase (s : State) : (openEdge s).phase = s.phase := rfl
@[simp] theorem openEdge_widx (s : State) : (openEdge s).widx = s.widx := rfl
@[simp] theorem openEdge_ridx (s : State) : (openEdge s).ridx = s.ridx := rfl
@[simp] theorem openEdge_obsLen (s : State) : (openEdge s).obsLen = s.obsLen := rfl
@[simp] theorem openEdge_cnt (s : State) : (openEdge s).cnt = s.cnt := rfl
@[simp] theorem openEdge_held (s : State) : (openEdge s).held = s.held := rfl
@[simp] theorem openEdge_heldValid (s : State) : (openEdge s).heldValid = s.heldValid := rfl
@[simp] theorem openEdge_lineOe (s : State) : (openEdge s).lineOe = s.lineOe := rfl
@[simp] theorem openEdge_lineOut (s : State) : (openEdge s).lineOut = s.lineOut := rfl
@[simp] theorem openEdge_obs (s : State) : (openEdge s).obs = s.obs := rfl
@[simp] theorem openEdge_ref (s : State) : (openEdge s).ref = s.ref := rfl
@[simp] theorem openEdge_maxHigh (s : State) : (openEdge s).maxHigh = s.maxHigh := rfl
@[simp] theorem openEdge_bitCount (s : State) : (openEdge s).bitCount = s.bitCount := rfl
@[simp] theorem openEdge_payload (s : State) : (openEdge s).payload = s.payload := rfl
@[simp] theorem openEdge_timeout (s : State) : (openEdge s).timeout = s.timeout := rfl
@[simp] theorem openEdge_capHit (s : State) : (openEdge s).capHit = s.capHit := rfl
@[simp] theorem openEdge_complete (s : State) : (openEdge s).complete = s.complete := rfl
@[simp] theorem openEdge_csumOk (s : State) : (openEdge s).csumOk = s.csumOk := rfl
@[simp] theorem openEdge_success (s : State) : (openEdge s).success = s.success := rfl
@[simp] theorem openEdge_done (s : State) : (openEdge s).done = s.done := rfl
@[simp] theorem openEdge_fatal (s : State) : (openEdge s).fatal = s.fatal := rfl
@[simp] theorem openEdge_status (s : State) : (openEdge s).status = s.status := rfl
@[simp] theorem openEdge_csumCalc (s : State) : (openEdge s).csumCalc = s.csumCalc := rfl
@[simp] theorem openEdge_humX10 (s : State) : (openEdge s).humX10 = s.humX10 := rfl
@[simp] theorem openEdge_tempNeg (s : State) : (openEdge s).tempNeg = s.tempNeg := rfl
@[simp] theorem openEdge_tempMagX10 (s : State) : (openEdge s).tempMagX10 = s.tempMagX10 := rfl
@[simp] theorem openEdge_fatalValue (s : State) : (openEdge s).fatalValue = s.fatalValue := rfl
@[simp] theorem openEdge_dly (s : State) : (openEdge s).dly = none := rfl
@[simp] theorem openEdge_pending (s : State) : (openEdge s).pending = s.pending := rfl
@[simp] theorem openEdge_edge (s : State) : (openEdge s).edge = s.edge := rfl
@[simp] theorem openEdge_cfg (s : State) : (openEdge s).cfg = s.cfg := rfl

/-! ### closeEdge -/

@[simp] theorem closeEdge_phase (s : State) : (closeEdge s).phase = s.phase := rfl
@[simp] theorem closeEdge_widx (s : State) : (closeEdge s).widx = s.widx := rfl
@[simp] theorem closeEdge_ridx (s : State) : (closeEdge s).ridx = s.ridx := rfl
@[simp] theorem closeEdge_obsLen (s : State) : (closeEdge s).obsLen = s.obsLen := rfl
@[simp] theorem closeEdge_cnt (s : State) : (closeEdge s).cnt = s.cnt := rfl
@[simp] theorem closeEdge_held (s : State) : (closeEdge s).held = s.held := rfl
@[simp] theorem closeEdge_heldValid (s : State) : (closeEdge s).heldValid = s.heldValid := rfl
@[simp] theorem closeEdge_lineOe (s : State) : (closeEdge s).lineOe = s.lineOe := rfl
@[simp] theorem closeEdge_lineOut (s : State) : (closeEdge s).lineOut = s.lineOut := rfl
@[simp] theorem closeEdge_obs (s : State) : (closeEdge s).obs = s.obs := rfl
@[simp] theorem closeEdge_ref (s : State) : (closeEdge s).ref = s.ref := rfl
@[simp] theorem closeEdge_maxHigh (s : State) : (closeEdge s).maxHigh = s.maxHigh := rfl
@[simp] theorem closeEdge_bitCount (s : State) : (closeEdge s).bitCount = s.bitCount := rfl
@[simp] theorem closeEdge_payload (s : State) : (closeEdge s).payload = s.payload := rfl
@[simp] theorem closeEdge_timeout (s : State) : (closeEdge s).timeout = s.timeout := rfl
@[simp] theorem closeEdge_capHit (s : State) : (closeEdge s).capHit = s.capHit := rfl
@[simp] theorem closeEdge_complete (s : State) : (closeEdge s).complete = s.complete := rfl
@[simp] theorem closeEdge_csumOk (s : State) : (closeEdge s).csumOk = s.csumOk := rfl
@[simp] theorem closeEdge_success (s : State) : (closeEdge s).success = s.success := rfl
@[simp] theorem closeEdge_done (s : State) : (closeEdge s).done = s.done := rfl
@[simp] theorem closeEdge_fatal (s : State) : (closeEdge s).fatal = s.fatal := rfl
@[simp] theorem closeEdge_status (s : State) : (closeEdge s).status = s.status := rfl
@[simp] theorem closeEdge_csumCalc (s : State) : (closeEdge s).csumCalc = s.csumCalc := rfl
@[simp] theorem closeEdge_humX10 (s : State) : (closeEdge s).humX10 = s.humX10 := rfl
@[simp] theorem closeEdge_tempNeg (s : State) : (closeEdge s).tempNeg = s.tempNeg := rfl
@[simp] theorem closeEdge_tempMagX10 (s : State) : (closeEdge s).tempMagX10 = s.tempMagX10 := rfl
@[simp] theorem closeEdge_fatalValue (s : State) : (closeEdge s).fatalValue = s.fatalValue := rfl
@[simp] theorem closeEdge_dly (s : State) : (closeEdge s).dly = s.dly := rfl
@[simp] theorem closeEdge_pending (s : State) : (closeEdge s).pending = s.pending.tail := rfl
@[simp] theorem closeEdge_edge (s : State) : (closeEdge s).edge = s.edge + 1 := rfl
@[simp] theorem closeEdge_cfg (s : State) : (closeEdge s).cfg = s.cfg := rfl

/-! ### resetRegisters -/

@[simp] theorem resetRegisters_phase (s : State) : (resetRegisters s).phase = State.reset.phase := rfl
@[simp] theorem resetRegisters_widx (s : State) : (resetRegisters s).widx = State.reset.widx := rfl
@[simp] theorem resetRegisters_ridx (s : State) : (resetRegisters s).ridx = State.reset.ridx := rfl
@[simp] theorem resetRegisters_obsLen (s : State) : (resetRegisters s).obsLen = State.reset.obsLen := rfl
@[simp] theorem resetRegisters_cnt (s : State) : (resetRegisters s).cnt = State.reset.cnt := rfl
@[simp] theorem resetRegisters_held (s : State) : (resetRegisters s).held = State.reset.held := rfl
@[simp] theorem resetRegisters_heldValid (s : State) : (resetRegisters s).heldValid = State.reset.heldValid := rfl
@[simp] theorem resetRegisters_lineOe (s : State) : (resetRegisters s).lineOe = State.reset.lineOe := rfl
@[simp] theorem resetRegisters_lineOut (s : State) : (resetRegisters s).lineOut = State.reset.lineOut := rfl
@[simp] theorem resetRegisters_obs (s : State) : (resetRegisters s).obs = State.reset.obs := rfl
@[simp] theorem resetRegisters_ref (s : State) : (resetRegisters s).ref = State.reset.ref := rfl
@[simp] theorem resetRegisters_maxHigh (s : State) : (resetRegisters s).maxHigh = State.reset.maxHigh := rfl
@[simp] theorem resetRegisters_bitCount (s : State) : (resetRegisters s).bitCount = State.reset.bitCount := rfl
@[simp] theorem resetRegisters_payload (s : State) : (resetRegisters s).payload = State.reset.payload := rfl
@[simp] theorem resetRegisters_timeout (s : State) : (resetRegisters s).timeout = State.reset.timeout := rfl
@[simp] theorem resetRegisters_capHit (s : State) : (resetRegisters s).capHit = State.reset.capHit := rfl
@[simp] theorem resetRegisters_complete (s : State) : (resetRegisters s).complete = State.reset.complete := rfl
@[simp] theorem resetRegisters_csumOk (s : State) : (resetRegisters s).csumOk = State.reset.csumOk := rfl
@[simp] theorem resetRegisters_success (s : State) : (resetRegisters s).success = State.reset.success := rfl
@[simp] theorem resetRegisters_done (s : State) : (resetRegisters s).done = State.reset.done := rfl
@[simp] theorem resetRegisters_fatal (s : State) : (resetRegisters s).fatal = State.reset.fatal := rfl
@[simp] theorem resetRegisters_status (s : State) : (resetRegisters s).status = State.reset.status := rfl
@[simp] theorem resetRegisters_csumCalc (s : State) : (resetRegisters s).csumCalc = State.reset.csumCalc := rfl
@[simp] theorem resetRegisters_humX10 (s : State) : (resetRegisters s).humX10 = State.reset.humX10 := rfl
@[simp] theorem resetRegisters_tempNeg (s : State) : (resetRegisters s).tempNeg = State.reset.tempNeg := rfl
@[simp] theorem resetRegisters_tempMagX10 (s : State) : (resetRegisters s).tempMagX10 = State.reset.tempMagX10 := rfl
@[simp] theorem resetRegisters_fatalValue (s : State) : (resetRegisters s).fatalValue = State.reset.fatalValue := rfl
@[simp] theorem resetRegisters_dly (s : State) : (resetRegisters s).dly = s.dly := rfl
@[simp] theorem resetRegisters_pending (s : State) : (resetRegisters s).pending = s.pending := rfl
@[simp] theorem resetRegisters_edge (s : State) : (resetRegisters s).edge = s.edge := rfl
@[simp] theorem resetRegisters_cfg (s : State) : (resetRegisters s).cfg = s.cfg := rfl

/-! ### startRegisters -/

@[simp] theorem startRegisters_phase (s : State) : (startRegisters s).phase = .wDirOut := rfl
@[simp] theorem startRegisters_widx (s : State) : (startRegisters s).widx = State.reset.widx := rfl
@[simp] theorem startRegisters_ridx (s : State) : (startRegisters s).ridx = State.reset.ridx := rfl
@[simp] theorem startRegisters_obsLen (s : State) : (startRegisters s).obsLen = State.reset.obsLen := rfl
@[simp] theorem startRegisters_cnt (s : State) : (startRegisters s).cnt = State.reset.cnt := rfl
@[simp] theorem startRegisters_held (s : State) : (startRegisters s).held = State.reset.held := rfl
@[simp] theorem startRegisters_heldValid (s : State) : (startRegisters s).heldValid = State.reset.heldValid := rfl
@[simp] theorem startRegisters_lineOe (s : State) : (startRegisters s).lineOe = s.lineOe := rfl
@[simp] theorem startRegisters_lineOut (s : State) : (startRegisters s).lineOut = s.lineOut := rfl
@[simp] theorem startRegisters_obs (s : State) : (startRegisters s).obs = State.reset.obs := rfl
@[simp] theorem startRegisters_ref (s : State) : (startRegisters s).ref = State.reset.ref := rfl
@[simp] theorem startRegisters_maxHigh (s : State) : (startRegisters s).maxHigh = State.reset.maxHigh := rfl
@[simp] theorem startRegisters_bitCount (s : State) : (startRegisters s).bitCount = State.reset.bitCount := rfl
@[simp] theorem startRegisters_payload (s : State) : (startRegisters s).payload = State.reset.payload := rfl
@[simp] theorem startRegisters_timeout (s : State) : (startRegisters s).timeout = State.reset.timeout := rfl
@[simp] theorem startRegisters_capHit (s : State) : (startRegisters s).capHit = State.reset.capHit := rfl
@[simp] theorem startRegisters_complete (s : State) : (startRegisters s).complete = State.reset.complete := rfl
@[simp] theorem startRegisters_csumOk (s : State) : (startRegisters s).csumOk = State.reset.csumOk := rfl
@[simp] theorem startRegisters_success (s : State) : (startRegisters s).success = State.reset.success := rfl
@[simp] theorem startRegisters_done (s : State) : (startRegisters s).done = State.reset.done := rfl
@[simp] theorem startRegisters_fatal (s : State) : (startRegisters s).fatal = State.reset.fatal := rfl
@[simp] theorem startRegisters_status (s : State) : (startRegisters s).status = State.reset.status := rfl
@[simp] theorem startRegisters_csumCalc (s : State) : (startRegisters s).csumCalc = State.reset.csumCalc := rfl
@[simp] theorem startRegisters_humX10 (s : State) : (startRegisters s).humX10 = State.reset.humX10 := rfl
@[simp] theorem startRegisters_tempNeg (s : State) : (startRegisters s).tempNeg = State.reset.tempNeg := rfl
@[simp] theorem startRegisters_tempMagX10 (s : State) : (startRegisters s).tempMagX10 = State.reset.tempMagX10 := rfl
@[simp] theorem startRegisters_fatalValue (s : State) : (startRegisters s).fatalValue = State.reset.fatalValue := rfl
@[simp] theorem startRegisters_dly (s : State) : (startRegisters s).dly = s.dly := rfl
@[simp] theorem startRegisters_pending (s : State) : (startRegisters s).pending = s.pending := rfl
@[simp] theorem startRegisters_edge (s : State) : (startRegisters s).edge = s.edge := rfl
@[simp] theorem startRegisters_cfg (s : State) : (startRegisters s).cfg = s.cfg := rfl

end Sys2Proof.Machine
end

