-- ==== Sys2Proof/Laws/Memory.lean ====
section
/-! SUPPORT. The observation buffer: a read after a write, and the canonical form. -/

namespace Sys2Proof.Machine

@[simp] theorem Memory.read_nil (a : Nat) : Memory.read [] a = none := rfl

@[simp] theorem Memory.read_cons (x : Nat) (v : Byte) (m : List Host.Cell) (a : Nat) :
    Memory.read ((x, v) :: m) a = if a = x then some v else Memory.read m a := rfl

/-- The one law of the buffer: a write is seen at its address and nowhere else, whatever the list. -/
theorem Memory.read_write (m : List Host.Cell) (a b : Nat) (v : Byte) :
    Memory.read (Memory.write m a v) b = if b = a then some v else Memory.read m b := by
  induction m with
  | nil => rfl
  | cons c m ih =>
    obtain ⟨x, w⟩ := c
    unfold Memory.write
    split
    · rfl
    · split
      · subst_vars
        by_cases hb : b = x <;> simp [hb]
      · next hne =>
        by_cases hb : b = x
        · have hba : ¬ b = a := fun e => hne (e.symm.trans hb)
          rw [Memory.read_cons, Memory.read_cons, if_pos hb, if_pos hb, if_neg hba]
        · simp [hb, ih]

theorem Memory.read_write_same (m : List Host.Cell) (a : Nat) (v : Byte) :
    Memory.read (Memory.write m a v) a = some v := by
  simp [Memory.read_write]

theorem Memory.read_write_other (m : List Host.Cell) (a b : Nat) (v : Byte) (h : b ≠ a) :
    Memory.read (Memory.write m a v) b = Memory.read m b := by
  simp [Memory.read_write, h]

/-- No cell can spell "no value": every listed value differs from what an unlisted address reads as. -/
@[simp] theorem Memory.some_ne_unlisted (v : Byte) (x : Nat) : (some v != Memory.unlisted x) = true := rfl

/-- The canonical form as Mathlib's strictly rising chain of addresses. -/
theorem Memory.wf_iff (m : List Host.Cell) : Memory.wf m = true ↔ (m.map Prod.fst).Pairwise (· < ·) := by
  rw [← List.isChain_iff_pairwise]
  induction m with
  | nil => simp [Memory.wf]
  | cons c m ih =>
    obtain ⟨x, v⟩ := c
    cases m with
    | nil => simp [Memory.wf]
    | cons c m =>
      obtain ⟨y, w⟩ := c
      simp [Memory.wf, ih]

/-- A write changes the set of listed addresses by its own address. -/
theorem Memory.mem_write_addresses (m : List Host.Cell) (a x : Nat) (v : Byte) :
    x ∈ (Memory.write m a v).map Prod.fst ↔ x = a ∨ x ∈ m.map Prod.fst := by
  induction m with
  | nil => simp [Memory.write]
  | cons c m ih =>
    obtain ⟨y, w⟩ := c
    unfold Memory.write
    split
    · simp
    · split
      · subst_vars; simp
      · rw [List.map_cons, List.map_cons, List.mem_cons, List.mem_cons, ih]
        tauto

/-- A write keeps the canonical form. -/
theorem Memory.write_wf (m : List Host.Cell) (a : Nat) (v : Byte) (h : Memory.wf m = true) :
    Memory.wf (Memory.write m a v) = true := by
  rw [Memory.wf_iff] at h ⊢
  induction m with
  | nil => simp [Memory.write]
  | cons c m ih =>
    obtain ⟨y, w⟩ := c
    rw [List.map_cons, List.pairwise_cons] at h
    unfold Memory.write
    split
    · next hlt =>
      refine List.pairwise_cons.2 ⟨?_, List.pairwise_cons.2 h⟩
      intro z hz
      rcases List.mem_cons.1 hz with rfl | hz
      · exact hlt
      · exact hlt.trans (h.1 z hz)
    · split
      · next heq => subst heq; exact List.pairwise_cons.2 h
      · next hge hne =>
        refine List.pairwise_cons.2 ⟨?_, ih h.2⟩
        intro z hz
        rcases (Memory.mem_write_addresses m a z v).1 hz with rfl | hz
        · exact Nat.lt_of_le_of_ne (Nat.le_of_not_lt hge) (fun e => hne e.symm)
        · exact h.1 z hz

theorem Memory.reset_wf : Memory.wf State.reset.obs = true := rfl

/-- A write one above the listed addresses 0 to n - 1 is an append. -/
theorem Memory.write_append (m : List Host.Cell) (a : Nat) (v : Byte) (h : ∀ c ∈ m, c.1 < a) :
    Memory.write m a v = m ++ [(a, v)] := by
  induction m with
  | nil => rfl
  | cons c m ih =>
    obtain ⟨x, w⟩ := c
    have hx : x < a := h (x, w) (List.mem_cons_self ..)
    have h1 : ¬ a < x := by omega
    have h2 : ¬ a = x := by omega
    simp only [Memory.write, h1, h2, if_false]
    rw [ih fun c hc => h c (List.mem_cons_of_mem _ hc)]
    rfl

/-- A read of a listed address answers the listed value. -/
theorem Memory.read_eq_some_iff (m : List Host.Cell) (h : Memory.wf m = true) (a : Nat) (v : Byte) :
    Memory.read m a = some v ↔ (a, v) ∈ m := by
  rw [Memory.wf_iff] at h
  induction m with
  | nil => simp
  | cons c m ih =>
    obtain ⟨x, w⟩ := c
    rw [List.map_cons, List.pairwise_cons] at h
    rw [Memory.read_cons, List.mem_cons, Prod.mk.injEq]
    by_cases hx : a = x
    · subst hx
      have hno : (a, v) ∉ m := fun hm =>
        absurd (h.1 a (List.mem_map.2 ⟨(a, v), hm, rfl⟩)) (Nat.lt_irrefl a)
      simp [hno, eq_comm]
    · simp [hx, ih h.2]

/-- With exactly the addresses below `n` listed, a read below `n` answers the entry's value. -/
theorem Memory.read_of_range (m : List Host.Cell) (n a : Nat) (h : m.map Prod.fst = List.range n) (ha : a < n) :
    ∃ v, Memory.read m a = some v ∧ (a, v) ∈ m ∧ (m.map Prod.snd)[a]? = some v := by
  have hw : Memory.wf m = true := by
    rw [Memory.wf_iff, h]
    exact List.pairwise_lt_range
  have hlen : m.length = n := by simpa using congrArg List.length h
  have hfst : m[a]'(by omega) = (a, (m[a]'(by omega)).2) := by
    have : (m.map Prod.fst)[a]'(by simp; omega) = a := by simp [h]
    ext1
    · simpa using this
    · rfl
  refine ⟨(m[a]'(by omega)).2, ?_, ?_, ?_⟩
  · rw [Memory.read_eq_some_iff m hw, ← hfst]
    exact List.getElem_mem _
  · rw [← hfst]
    exact List.getElem_mem _
  · simp [hlen, ha]

/-- MemRead leaves its three cases: no such entry, no value, the value (R52). -/
theorem memRead_cases (s : State) (i : Nat) :
    (s.cfg.maxObs ≤ i ∧ memRead s i = .fault (.noSuchEntry i)) ∨
      (i < s.cfg.maxObs ∧ (s.obsLen.toNat ≤ i ∨ Memory.read s.obs i = none) ∧
        memRead s i = .refused (.unrecordedEntry i)) ∨
      (i < s.cfg.maxObs ∧ i < s.obsLen.toNat ∧ ∃ v, Memory.read s.obs i = some v ∧ memRead s i = .next v) := by
  unfold memRead
  split
  · exact .inl ⟨‹_›, rfl⟩
  · split
    · exact .inr (.inl ⟨by omega, .inl ‹_›, rfl⟩)
    · cases h : Memory.read s.obs i with
      | none => exact .inr (.inl ⟨by omega, .inr rfl, rfl⟩)
      | some v => exact .inr (.inr ⟨by omega, by omega, v, rfl, rfl⟩)

/-- MemWrite either finds no such entry or changes the buffer alone (R51). -/
theorem memWrite_cases (s : State) (i : Nat) (v : Byte) :
    (s.cfg.maxObs ≤ i ∧ memWrite s i v = .fault (.noSuchEntry i)) ∨
      (i < s.cfg.maxObs ∧ memWrite s i v = .next { s with obs := Memory.write s.obs i v }) := by
  unfold memWrite
  split
  · exact .inl ⟨‹_›, rfl⟩
  · exact .inr ⟨by omega, rfl⟩

/-- Every operation on the buffer keeps the canonical form. -/
theorem memWrite_wf (s t : State) (i : Nat) (v : Byte) (h : Memory.wf s.obs = true)
    (hw : memWrite s i v = .next t) : Memory.wf t.obs = true := by
  rcases memWrite_cases s i v with ⟨-, e⟩ | ⟨-, e⟩ <;> rw [e] at hw
  · cases hw
  · injection hw with hw
    subst hw
    exact Memory.write_wf _ _ _ h

end Sys2Proof.Machine
end

