-- ==== Sys2Proof/Laws/Ops.lean ====
section
/-! SUPPORT. One lemma per shared operation that says everything it can do. -/

namespace Sys2Proof.Machine

@[simp] theorem now_cons (s : State) (e : Inputs) (es : List Inputs) :
    State.now { s with pending := e :: es } = e := rfl

theorem now_of_pending {s : State} {e : Inputs} {es : List Inputs} (h : s.pending = e :: es) : s.now = e := by
  simp [State.now, h]

/-- The inputs now are the inputs zero edges from now. -/
theorem inputsAt_zero (s : State) : s.inputsAt 0 = s.now := by
  unfold State.inputsAt State.now
  cases s.pending <;> rfl

@[simp] theorem now_openEdge (s : State) : (openEdge s).now = s.now := rfl

@[simp] theorem lineRead_openEdge (s : State) : lineRead (openEdge s) = lineRead s := rfl

/-- After an edge, the inputs `k` edges ahead are those `k + 1` edges ahead before it. -/
theorem inputsAt_of_spent (s t : State) (k : Nat) (hp : t.pending = s.pending.tail) (he : t.edge = s.edge + 1) :
    t.inputsAt k = s.inputsAt (k + 1) := by
  unfold State.inputsAt
  rw [hp, he]
  cases s.pending with
  | nil => simp [Nat.add_comm, Nat.add_left_comm]
  | cons e es => simp [Nat.add_comm, Nat.add_left_comm]

@[simp] theorem levelOf_levelRaw (l : Level) : levelOf (levelRaw l) = some l := by cases l <;> rfl

theorem levelOf_eq_some {raw : Nat} {l : Level} : levelOf raw = some l ↔ raw = levelRaw l := by
  match raw with
  | 0 => cases l <;> simp [levelOf, levelRaw]
  | 1 => cases l <;> simp [levelOf, levelRaw]
  | n + 2 => cases l <;> simp [levelOf, levelRaw]

theorem levelOf_eq_none {raw : Nat} : levelOf raw = none ↔ raw ≠ 0 ∧ raw ≠ 1 := by
  match raw with
  | 0 => simp [levelOf]
  | 1 => simp [levelOf]
  | n + 2 => simp [levelOf]

theorem levelRaw_injective {a b : Level} : levelRaw a = levelRaw b ↔ a = b := by
  cases a <;> cases b <;> simp [levelRaw]

/-- The two cases of a tick operation that needs a level (R108, R200; log entry 5). -/
theorem withLevel_cases (s : State) (f : Level → Result) :
    (lineRead s ≠ 0 ∧ lineRead s ≠ 1 ∧ withLevel s f = .next (raiseFatal (lineRead s) s)) ∨
      ∃ l, lineRead s = levelRaw l ∧ withLevel s f = f l := by
  unfold withLevel
  cases h : levelOf (lineRead s) with
  | none => exact .inl ⟨(levelOf_eq_none.1 h).1, (levelOf_eq_none.1 h).2, rfl⟩
  | some l => exact .inr ⟨l, levelOf_eq_some.1 h, rfl⟩

theorem withLevel_of_level {s : State} {l : Level} (f : Level → Result) (h : lineRead s = levelRaw l) :
    withLevel s f = f l := by
  simp [withLevel, h]

theorem withLevel_of_invalid {s : State} (f : Level → Result) (h0 : lineRead s ≠ 0) (h1 : lineRead s ≠ 1) :
    withLevel s f = .next (raiseFatal (lineRead s) s) := by
  simp [withLevel, levelOf_eq_none.2 ⟨h0, h1⟩]

/-- What S_EDGE and S_CAP share, in its two cases (R112, R50). -/
theorem recordObservation_cases (l : Level) (s : State) :
    (s.cfg.maxObs ≤ s.widx.toNat ∧ recordObservation l s = .fault (.noSuchEntry s.widx.toNat)) ∨
      (s.widx.toNat < s.cfg.maxObs ∧ recordObservation l s = .next
        { s with obs := Memory.write s.obs s.widx.toNat s.cnt, obsLen := s.widx + 1, widx := s.widx + 1,
                 held := l, cnt := 0 }) := by
  unfold recordObservation
  rcases memWrite_cases s s.widx.toNat s.cnt with ⟨h, e⟩ | ⟨h, e⟩ <;> rw [e]
  · exact .inl ⟨h, rfl⟩
  · exact .inr ⟨h, rfl⟩

/-- A closed operation answers a next state exactly where the operation does. -/
theorem closed_eq_next {r : Result} {t : State} : closed r = .next t ↔ ∃ s, r = .next s ∧ t = closeEdge s := by
  cases r with
  | next s => simp [closed, eq_comm]
  | fault _ => simp [closed]
  | refused _ => simp [closed]

@[simp] theorem closed_next (s : State) : closed (.next s) = .next (closeEdge s) := rfl
@[simp] theorem closed_fault (r : Fault) : closed (.fault r) = .fault r := rfl
@[simp] theorem closed_refused (r : Refusal) : closed (.refused r) = .refused r := rfl

@[simp] theorem frameOpen_openEdge (s : State) : frameOpen (openEdge s) = frameOpen s := rfl
@[simp] theorem condOf_openEdge (s : State) : condOf (openEdge s) = condOf s := rfl
@[simp] theorem fetchPhase_openEdge (s : State) : fetchPhase (openEdge s) = fetchPhase s := rfl

end Sys2Proof.Machine
end

