-- ==== Sys2Proof/Laws/Decode.lean ====
section
/-! SUPPORT. The words: their fields, their ranges, and what the decoder reads from them. -/

namespace Sys2Proof

/-- The number an observation word is (R70). -/
theorem obsWord_toNat (i : Index) (d : Byte) : (obsWord i d).toNat = i.toNat * 256 + d.toNat := by
  have hi := i.isLt
  have hd := d.isLt
  have happ : (i ++ d : BitVec (7 + 8)).toNat = i.toNat * 256 + d.toNat := by
    rw [BitVec.toNat_append, ← Nat.shiftLeft_add_eq_or_of_lt hd, Nat.shiftLeft_eq]
  unfold obsWord
  rw [BitVec.toNat_setWidth]
  exact (congrArg (· % 2 ^ 16) happ).trans (Nat.mod_eq_of_lt (by omega))

/-- The index field of an observation word (R70). -/
@[simp] theorem obsWord_index (i : Index) (d : Byte) : (obsWord i d).extractLsb' 8 7 = i := by
  have hi := i.isLt
  have hd := d.isLt
  apply BitVec.eq_of_toNat_eq
  rw [BitVec.extractLsb'_toNat, obsWord_toNat, Nat.shiftRight_eq_div_pow]
  omega

/-- The duration field of an observation word (R70). -/
@[simp] theorem obsWord_duration (i : Index) (d : Byte) : (obsWord i d).extractLsb' 0 8 = d := by
  have hi := i.isLt
  have hd := d.isLt
  apply BitVec.eq_of_toNat_eq
  rw [BitVec.extractLsb'_toNat, obsWord_toNat, Nat.shiftRight_eq_div_pow]
  omega

/-- Masking an observation word masks its two fields (R73). -/
theorem obsWord_and (i j : Index) (d e : Byte) : obsWord i d &&& obsWord j e = obsWord (i &&& j) (d &&& e) := by
  unfold obsWord
  rw [← BitVec.setWidth_and, BitVec.and_append]

/-- An index is odd exactly when its mask bit is set (R72: the `match` of a DATA row). -/
theorem odd_iff_and_one : ∀ i : Index, i.toNat % 2 = 1 ↔ i &&& 1 = 1 := by decide

/-- An index is even exactly when its mask bit is clear (R72: the `match` of a REF row). -/
theorem even_iff_and_one : ∀ i : Index, i.toNat % 2 = 0 ↔ i &&& 1 = 0 := by decide

/-- An observation word has 15 bits. -/
theorem obsWord_lt (i : Index) (d : Byte) : (obsWord i d).toNat < 2 ^ 15 := by
  have hi := i.isLt
  have hd := d.isLt
  rw [obsWord_toNat]
  omega

/-- The class test of R72 answers only well-formed observations. -/
theorem decodeObs_wellFormed (c : Cond) (i : Index) (d : Byte) : (decodeObs c i d).wellFormed = true := by
  unfold decodeObs
  by_cases h2 : i.toNat = Config.calIndex
  · rw [if_pos h2]
    rfl
  rw [if_neg h2]
  by_cases h1 : i.toNat = 1
  · rw [if_pos h1]
    rfl
  rw [if_neg h1]
  by_cases ho : i.toNat % 2 = 1
  · have hd : Index.isData i = true := by
      simp [Index.isData, Config.firstDataIndex, ho]
      exact decide_eq_true (by omega)
    rw [if_pos ho]
    split <;> exact hd
  · have hr : Index.isRef i = true := by
      simp [Index.isRef, h2]
      omega
    rw [if_neg ho]
    exact hr

/-- Reading an observation word is reading its two fields. -/
theorem decode_obsWord (c : Cond) (i : Index) (d : Byte) :
    decode c .obs (obsWord i d) = .ok (decodeObs c i d) := by
  have h : ¬ 2 ^ Format.obs.width ≤ (obsWord i d).toNat := Nat.not_le.2 (obsWord_lt i d)
  simp [decode, h]

/-- Reading a condition word is the table of R75 on its five bits. -/
theorem decode_scWord (c : Cond) (a b e f g : Bool) :
    decode c .sc (scWord a b e f g) = .ok (selectTick a b e f g) := by
  cases a <;> cases b <;> cases e <;> cases f <;> cases g <;> rfl

/-- Reading a command word (R76). -/
theorem decode_cmdWord (c : Cond) (a b : Bool) :
    decode c .cmd (cmdWord a b) =
      if a = true then .ok .reset
      else if b = true then (if c.startAccepted = true then .ok .start else .ok .startIgnored)
      else .error .noCommand := by
  cases a <;> cases b <;> rfl

/-- Reading a phase's code: every phase but SAMPLE selects an operation (R77). -/
theorem decode_phWord (c : Cond) (p : Phase) :
    decode c .ph (phWord p) =
      match p with
      | .idle => .ok .nopIdle
      | .wDirOut => .ok .w1DirOut
      | .wHigh => .ok .w2DriveHigh
      | .wHighHold => .ok .w3HoldHigh
      | .wLow => .ok .w4DriveLow
      | .wLowHold => .ok .w5HoldLow
      | .wRel => .ok .w6DriveRel
      | .wRelHold => .ok .w7HoldRel
      | .wListen => .ok .w8Listen
      | .sample => .error .sampleNeedsConditionWord
      | .decode => .ok .endSeq
      | .validate => .ok .validate
      | .convert => .ok .convert
      | .done => .ok .nopDone
      | .fatal => .ok .nopFatal := by
  cases p <;> rfl

/-- The phase codes are distinct (R31). -/
theorem phaseCode_injective {p q : Phase} (h : phaseCode p = phaseCode q) : p = q := by
  revert h
  cases p <;> cases q <;> decide

/-- `inv` is 1 exactly on a sample that is neither 0 nor 1 (R74). -/
theorem Machine.condInv_eq (s : Machine.State) :
    Machine.condInv s = decide (Machine.lineRead s ≠ 0 ∧ Machine.lineRead s ≠ 1) := by
  unfold Machine.condInv
  cases h : Machine.levelOf (Machine.lineRead s) with
  | none => simp [Machine.levelOf_eq_none.1 h]
  | some l =>
    have := Machine.levelOf_eq_some.1 h
    cases l <;> simp [this, Machine.levelRaw]

/-- The tick operation chosen by the condition word is the one `SampleTick()` performs (R75, R114). -/
theorem Machine.exec_selectTick (s : Machine.State) :
    Machine.exec (selectTick (Machine.condInv s) (Machine.condFirst s) (Machine.condEq s) (Machine.condLastCnt s)
      (Machine.condLastIdx s)) s = Machine.sampleTick s := by
  unfold Machine.sampleTick
  rw [Machine.condInv_eq, Machine.condFirst, Machine.condEq, Machine.condLastCnt, Machine.condLastIdx]
  by_cases hi : Machine.lineRead s ≠ 0 ∧ Machine.lineRead s ≠ 1
  · rw [if_pos hi, decide_eq_true hi]
    rfl
  rw [if_neg hi, decide_eq_false hi]
  cases hv : s.heldValid
  · rfl
  rw [if_neg (by decide)]
  by_cases he : Machine.lineRead s = Machine.levelRaw s.held
  · rw [if_pos he, he, beq_self_eq_true]
    by_cases hc : s.cnt.toNat + 1 = s.cfg.ceil
    · rw [if_pos hc, hc, beq_self_eq_true]
      rfl
    · rw [if_neg hc, beq_eq_false_iff_ne.2 hc]
      rfl
  · rw [if_neg he, beq_eq_false_iff_ne.2 he]
    by_cases hx : s.widx.toNat + 1 = s.cfg.maxObs
    · rw [if_pos hx, hx, beq_self_eq_true]
      rfl
    · rw [if_neg hx, beq_eq_false_iff_ne.2 hx]
      rfl

/-- What the phase presents, read by the decoder and performed, is the phase's operation (R77, R114, R130). -/
theorem Machine.fetchPhase_cases (s : Machine.State) :
    (Machine.fetchPhase s = .nothing ∧ Machine.phaseOperation s = .next s) ∨
      (∃ r, Machine.fetchPhase s = .fault r ∧ Machine.phaseOperation s = .fault r) ∨
      (∃ r, Machine.fetchPhase s = .refused r ∧ Machine.phaseOperation s = .refused r) ∨
      ∃ f w i, Machine.fetchPhase s = .word f w ∧ decode (Machine.condOf s) f w = .ok i ∧
        i.wellFormed = true ∧ Machine.phaseOperation s = Machine.exec i s := by
  cases hp : s.phase with
  | sample =>
    cases ht : s.now.tick with
    | false => exact .inl (by simp [Machine.fetchPhase, Machine.phaseOperation, hp, ht])
    | true =>
      refine .inr (.inr (.inr ⟨.sc, Machine.tickWord s, _, by simp [Machine.fetchPhase, hp, ht], decode_scWord _ _ _ _ _ _,
        ?_, ?_⟩))
      · unfold selectTick
        split <;> rfl
      · rw [Machine.exec_selectTick]
        simp [Machine.phaseOperation, hp, ht]
  | decode =>
    by_cases he : s.ridx = s.obsLen
    · exact .inr (.inr (.inr ⟨.ph, phWord .decode, .endSeq, by simp [Machine.fetchPhase, hp, he], decode_phWord _ _, rfl,
        by simp [Machine.phaseOperation, hp, Machine.decodeStep, he, Machine.exec]⟩))
    · rcases Machine.memRead_cases s s.ridx.toNat with ⟨-, e⟩ | ⟨-, -, e⟩ | ⟨-, -, d, -, e⟩
      · exact .inr (.inl ⟨.noSuchEntry s.ridx.toNat, by simp [Machine.fetchPhase, hp, he, e],
          by simp [Machine.phaseOperation, hp, Machine.decodeStep, he, e]⟩)
      · exact .inr (.inr (.inl ⟨.unrecordedEntry s.ridx.toNat, by simp [Machine.fetchPhase, hp, he, e],
          by simp [Machine.phaseOperation, hp, Machine.decodeStep, he, e]⟩))
      · refine .inr (.inr (.inr ⟨.obs, obsWord s.ridx d, _, by simp [Machine.fetchPhase, hp, he, e], decode_obsWord _ _ _,
          ?_, ?_⟩))
        · exact decodeObs_wellFormed _ _ _
        · have h2 : (s.ridx = 2) ↔ s.ridx.toNat = Config.calIndex :=
            ⟨fun h => by rw [h]; rfl, fun h => BitVec.eq_of_toNat_eq h⟩
          have h1 : (s.ridx = 1) ↔ s.ridx.toNat = 1 :=
            ⟨fun h => by rw [h]; rfl, fun h => BitVec.eq_of_toNat_eq h⟩
          simp only [Machine.phaseOperation, hp, Machine.decodeStep, he, e, if_false, decodeObs, h2, h1]
          split
          · rfl
          · split
            · rfl
            · split
              · cases hf : Machine.frameOpen s <;> simp [Machine.condOf, hf, Machine.exec]
              · rfl
  | _ =>
    exact .inr (.inr (.inr ⟨.ph, phWord s.phase, _, by simp [Machine.fetchPhase, hp], by rw [hp]; exact decode_phWord _ _, rfl,
      by simp [Machine.phaseOperation, hp, Machine.exec]⟩))

end Sys2Proof
end

