-- ==== Sys2Proof/Laws/Phases.lean ====
section
/-! SUPPORT. Everything a tick and a decoder step can do, case by case. -/

namespace Sys2Proof.Machine

/-- The state S_EDGE leaves, and S_CAP but for its flag and phase (R112). -/
abbrev recorded (l : Level) (s : State) : State :=
  { s with obs := Memory.write s.obs s.widx.toNat s.cnt, obsLen := s.widx + 1, widx := s.widx + 1, held := l, cnt := 0 }

/-- `SampleTick()` in its cases (R114): the fatal stop, the first sample, the timeout, the same level, the cap, the edge; the
last two stop where the entry does not exist. -/
theorem sampleTick_cases (s : State) :
    (lineRead s ≠ 0 ∧ lineRead s ≠ 1 ∧ sampleTick s = .next (raiseFatal (lineRead s) s)) ∨
    ∃ l, lineRead s = levelRaw l ∧
      ((s.heldValid = false ∧ sampleTick s = .next { s with held := l, heldValid := true, cnt := 1 }) ∨
      (s.heldValid = true ∧ l = s.held ∧ s.cnt.toNat + 1 = s.cfg.ceil ∧
        sampleTick s = .next { s with timeout := true, cnt := 0, phase := .decode }) ∨
      (s.heldValid = true ∧ l = s.held ∧ s.cnt.toNat + 1 ≠ s.cfg.ceil ∧
        sampleTick s = .next { s with cnt := s.cnt + 1 }) ∨
      (s.heldValid = true ∧ l ≠ s.held ∧ s.widx.toNat + 1 = s.cfg.maxObs ∧
        sampleTick s = .next { recorded l s with capHit := true, phase := .decode }) ∨
      (s.heldValid = true ∧ l ≠ s.held ∧ s.widx.toNat + 1 ≠ s.cfg.maxObs ∧ s.widx.toNat < s.cfg.maxObs ∧
        sampleTick s = .next (recorded l s)) ∨
      (s.heldValid = true ∧ l ≠ s.held ∧ s.cfg.maxObs ≤ s.widx.toNat ∧
        sampleTick s = .fault (.noSuchEntry s.widx.toNat))) := by
  by_cases hi : lineRead s ≠ 0 ∧ lineRead s ≠ 1
  · exact .inl ⟨hi.1, hi.2, by rw [sampleTick, if_pos hi, execSFatal]⟩
  obtain ⟨l, hl⟩ : ∃ l, lineRead s = levelRaw l := by
    rcases withLevel_cases s (fun _ => .next s) with ⟨h0, h1, -⟩ | ⟨l, hl, -⟩
    · exact absurd ⟨h0, h1⟩ hi
    · exact ⟨l, hl⟩
  refine .inr ⟨l, hl, ?_⟩
  rw [sampleTick, if_neg hi]
  by_cases hf : s.heldValid = false
  · exact .inl ⟨hf, by rw [if_pos hf, execSFirst, withLevel_of_level _ hl]⟩
  have hv : s.heldValid = true := by simpa using hf
  rw [if_neg hf]
  by_cases he : l = s.held
  · rw [if_pos (by rw [hl, he])]
    by_cases hc : s.cnt.toNat + 1 = s.cfg.ceil
    · exact .inr (.inl ⟨hv, he, hc, by rw [if_pos hc, execSTimeout, withLevel_of_level _ hl]⟩)
    · exact .inr (.inr (.inl ⟨hv, he, hc, by rw [if_neg hc, execSSame, withLevel_of_level _ hl]⟩))
  rw [if_neg (by rw [hl]; exact fun h => he (levelRaw_injective.1 h))]
  by_cases hx : s.widx.toNat + 1 = s.cfg.maxObs
  · rw [if_pos hx, execSCap, withLevel_of_level _ hl]
    rcases recordObservation_cases l { s with capHit := true, phase := .decode } with ⟨h, -⟩ | ⟨-, e⟩
    · exact absurd (show s.cfg.maxObs ≤ s.widx.toNat from h) (by omega)
    · exact .inr (.inr (.inr (.inl ⟨hv, he, hx, e⟩)))
  rw [if_neg hx, execSEdge, withLevel_of_level _ hl]
  rcases recordObservation_cases l s with ⟨h, e⟩ | ⟨h, e⟩
  · exact .inr (.inr (.inr (.inr (.inr ⟨hv, he, h, e⟩))))
  · exact .inr (.inr (.inr (.inr (.inl ⟨hv, he, hx, h, e⟩))))

/-- The decoder's registers after one observation (R130): what REF, CAL, SKIP and DATA leave, as one pure function. -/
abbrev consumed (d : Byte) (s : State) : State :=
  let e := decoderFunction (decoderState s) s.ridx.toNat d
  { s with ref := e.ref, maxHigh := e.maxHigh, bitCount := e.bitCount, payload := e.payload, ridx := s.ridx + 1 }

/-- `DecodeStep()` in its cases (R130): END, one observation consumed, or no such entry or value. -/
theorem decodeStep_cases (s : State) :
    (s.ridx = s.obsLen ∧ decodeStep s = .next { s with phase := .validate }) ∨
      (s.ridx ≠ s.obsLen ∧ ∃ d, memRead s s.ridx.toNat = .next d ∧ decodeStep s = .next (consumed d s)) ∨
      (s.ridx ≠ s.obsLen ∧ ∃ r, memRead s s.ridx.toNat = .fault r ∧ decodeStep s = .fault r) ∨
      (s.ridx ≠ s.obsLen ∧ ∃ r, memRead s s.ridx.toNat = .refused r ∧ decodeStep s = .refused r) := by
  by_cases he : s.ridx = s.obsLen
  · exact .inl ⟨he, by rw [decodeStep, if_pos he]; rfl⟩
  cases hm : memRead s s.ridx.toNat with
  | fault r => exact .inr (.inr (.inl ⟨he, r, rfl, by rw [decodeStep, if_neg he, hm]⟩))
  | refused r => exact .inr (.inr (.inr ⟨he, r, rfl, by rw [decodeStep, if_neg he, hm]⟩))
  | next d =>
    refine .inr (.inl ⟨he, d, rfl, ?_⟩)
    have h2 : (s.ridx = 2) ↔ s.ridx.toNat = 2 := ⟨fun h => by rw [h]; rfl, fun h => BitVec.eq_of_toNat_eq h⟩
    have h1 : (s.ridx = 1) ↔ s.ridx.toNat = 1 := ⟨fun h => by rw [h]; rfl, fun h => BitVec.eq_of_toNat_eq h⟩
    rw [decodeStep, if_neg he, hm]
    simp only [h2, h1, consumed, decoderFunction]
    split
    · rfl
    split
    · rfl
    split
    · by_cases hf : s.bitCount.toNat < 40
      · have ho : frameOpen s = true := decide_eq_true hf
        rw [if_pos ho, execData, if_pos ho]
        simp only [decoderState, hf, if_true]
        rfl
      · have ho : frameOpen s = false := decide_eq_false hf
        rw [if_neg (by rw [ho]; decide)]
        simp only [decoderState, hf, if_false]
        rfl
    · rfl

/-! ### The phase's operation, one lemma per phase (R77) -/

theorem phaseOperation_idle {s : State} (h : s.phase = .idle) : phaseOperation s = execNopIdle s := by
  simp [phaseOperation, h]

theorem phaseOperation_wDirOut {s : State} (h : s.phase = .wDirOut) : phaseOperation s = execW1DirOut s := by
  simp [phaseOperation, h]

theorem phaseOperation_wHigh {s : State} (h : s.phase = .wHigh) : phaseOperation s = execW2DriveHigh s := by
  simp [phaseOperation, h]

theorem phaseOperation_wHighHold {s : State} (h : s.phase = .wHighHold) : phaseOperation s = execW3HoldHigh s := by
  simp [phaseOperation, h]

theorem phaseOperation_wLow {s : State} (h : s.phase = .wLow) : phaseOperation s = execW4DriveLow s := by
  simp [phaseOperation, h]

theorem phaseOperation_wLowHold {s : State} (h : s.phase = .wLowHold) : phaseOperation s = execW5HoldLow s := by
  simp [phaseOperation, h]

theorem phaseOperation_wRel {s : State} (h : s.phase = .wRel) : phaseOperation s = execW6DriveRel s := by
  simp [phaseOperation, h]

theorem phaseOperation_wRelHold {s : State} (h : s.phase = .wRelHold) : phaseOperation s = execW7HoldRel s := by
  simp [phaseOperation, h]

theorem phaseOperation_wListen {s : State} (h : s.phase = .wListen) : phaseOperation s = execW8Listen s := by
  simp [phaseOperation, h]

theorem phaseOperation_sample {s : State} (h : s.phase = .sample) : phaseOperation s = (if s.now.tick = true then sampleTick s else .next s) := by
  simp [phaseOperation, h]

theorem phaseOperation_decode {s : State} (h : s.phase = .decode) : phaseOperation s = decodeStep s := by
  simp [phaseOperation, h]

theorem phaseOperation_validate {s : State} (h : s.phase = .validate) : phaseOperation s = execValidate s := by
  simp [phaseOperation, h]

theorem phaseOperation_convert {s : State} (h : s.phase = .convert) : phaseOperation s = execConvert s := by
  simp [phaseOperation, h]

theorem phaseOperation_done {s : State} (h : s.phase = .done) : phaseOperation s = execNopDone s := by
  simp [phaseOperation, h]

theorem phaseOperation_fatal {s : State} (h : s.phase = .fatal) : phaseOperation s = execNopFatal s := by
  simp [phaseOperation, h]

/-- Everything the phase's operation can leave, case by case: nothing, a wake-up step, a tick, a decoder step, VALIDATE or
CONVERT (R77, R174). -/
theorem phaseOperation_cases (s t : State) (h : phaseOperation s = .next t) :
    (t = s ∧ (s.phase = .idle ∨ s.phase = .done ∨ s.phase = .fatal ∨ (s.phase = .sample ∧ s.now.tick = false) ∨
      ((s.phase = .wHighHold ∨ s.phase = .wLowHold ∨ s.phase = .wRelHold) ∧ s.now.dlyDone = false))) ∨
    (s.phase = .wDirOut ∧ t = { s with lineOe := .output, phase := .wHigh }) ∨
    (s.phase = .wHigh ∧ t = { s with lineOut := .high, dly := some ⟨.timeUnit, s.cfg.tIdleHigh⟩, phase := .wHighHold }) ∨
    (s.phase = .wLow ∧ t = { s with lineOut := .low, dly := some ⟨.timeUnit, s.cfg.tStartLow⟩, phase := .wLowHold }) ∨
    (s.phase = .wRel ∧
      t = { s with lineOut := .high, dly := some ⟨.microTimeUnit, s.cfg.tReleaseHigh⟩, phase := .wRelHold }) ∨
    (s.phase = .wHighHold ∧ s.now.dlyDone = true ∧ t = { s with phase := .wLow }) ∨
    (s.phase = .wLowHold ∧ s.now.dlyDone = true ∧ t = { s with phase := .wRel }) ∨
    (s.phase = .wRelHold ∧ s.now.dlyDone = true ∧ t = { s with phase := .wListen }) ∨
    (s.phase = .wListen ∧ t = { s with lineOe := .input, widx := 0, cnt := 0, heldValid := false, phase := .sample }) ∨
    (s.phase = .sample ∧ s.now.tick = true ∧ sampleTick s = .next t) ∨
    (s.phase = .decode ∧ decodeStep s = .next t) ∨
    (s.phase = .validate ∧ execValidate s = .next t) ∨
    (s.phase = .convert ∧ execConvert s = .next t) := by
  unfold phaseOperation at h
  cases hp : s.phase <;> simp only [hp] at h
  case idle => simp [execNopIdle] at h; simp [h]
  case done => simp [execNopDone] at h; simp [h]
  case fatal => simp [execNopFatal] at h; simp [h]
  case wDirOut => simp [execW1DirOut] at h; simp [h]
  case wHigh => simp [execW2DriveHigh, driveThen] at h; simp [h]
  case wLow => simp [execW4DriveLow, driveThen] at h; simp [h]
  case wRel => simp [execW6DriveRel, driveThen] at h; simp [h]
  case wHighHold => cases hd : s.now.dlyDone <;> simp [execW3HoldHigh, holdThen, setPhase, hd] at h <;> simp [h]
  case wLowHold => cases hd : s.now.dlyDone <;> simp [execW5HoldLow, holdThen, setPhase, hd] at h <;> simp [h]
  case wRelHold => cases hd : s.now.dlyDone <;> simp [execW7HoldRel, holdThen, setPhase, hd] at h <;> simp [h]
  case wListen => simp [execW8Listen] at h; simp [h]
  case sample => cases hd : s.now.tick <;> simp [hd] at h <;> simp [h]
  case decode => simp [h]
  case validate => simp [h]
  case convert => simp [h]

/-! ### A counter below its width's end does not wrap -/

theorem toNat_succ_index (x : Index) (h : x.toNat + 1 < 128) : (x + 1).toNat = x.toNat + 1 := by
  rw [BitVec.toNat_add]
  simp
  omega

theorem toNat_succ_byte (x : Byte) (h : x.toNat + 1 < 256) : (x + 1).toNat = x.toNat + 1 := by
  rw [BitVec.toNat_add]
  simp
  omega

theorem toNat_succ_bitCount (x : BitVec 6) (h : x.toNat + 1 < 64) : (x + 1).toNat = x.toNat + 1 := by
  rw [BitVec.toNat_add]
  simp
  omega

/-- R134 in numbers: the byte doubled plus the bit, truncated to 8 bits. -/
theorem shiftIn_toNat (v : Byte) (b : Bool) : (shiftIn v b).toNat = (2 * v.toNat + b.toNat) % 256 := by
  revert v b
  decide

/-! ### Runs of clock edges -/

@[simp] theorem runEdges_zero (s : State) : runEdges 0 s = .next s := rfl

/-- One edge, then the rest. -/
theorem runEdges_unfold (k : Nat) (s : State) :
    runEdges (k + 1) s = match step s with
      | .next t => runEdges k t
      | .fault r => .fault r
      | .refused r => .refused r := by
  have hs : Sys2Proof.core.step s = step s := rfl
  unfold runEdges
  cases h : step s <;> simp only [Host.Core.run, hs, h] <;> rfl

/-- A run that begins with an edge answering `t` goes on from `t`. -/
theorem runEdges_succ {s t : State} (k : Nat) (h : step s = .next t) : runEdges (k + 1) s = runEdges k t := by
  rw [runEdges_unfold, h]

/-- A run of `j + k` edges whose first `j` answer `t` goes on from `t`. -/
theorem runEdges_add {s t : State} (j k : Nat) (h : runEdges j s = .next t) : runEdges (j + k) s = runEdges k t := by
  induction j generalizing s with
  | zero =>
    injection h with h
    rw [Nat.zero_add, h]
  | succ j ih =>
    cases hs : step s with
    | next u =>
      rw [runEdges_succ j hs] at h
      rw [Nat.succ_add, runEdges_succ (j + k) hs, ih h]
    | fault r =>
      rw [runEdges_unfold, hs] at h
      cases h
    | refused r =>
      rw [runEdges_unfold, hs] at h
      cases h

end Sys2Proof.Machine
end

