-- ==== Sys2Proof/Laws/PerInstr.lean ====
section
/-! SUPPORT. What holds of every operation as syntax, one lemma per constructor of Instr. -/

namespace Sys2Proof.Laws.EncodeFits

/-- The word of an operation fits its format (R70, R74, R76, R31). -/
def Statement (i : Instr) : Prop := (encode i).2.toNat < 2 ^ (encode i).1.width

theorem fits {i : Instr} (h : (encode i).2.toNat < 2 ^ (encode i).1.width) : Statement i := h

theorem reset : Statement .reset := fits (by decide)
theorem start : Statement .start := fits (by decide)
theorem startIgnored : Statement .startIgnored := fits (by decide)
theorem nopIdle : Statement .nopIdle := fits (by decide)
theorem nopDone : Statement .nopDone := fits (by decide)
theorem nopFatal : Statement .nopFatal := fits (by decide)
theorem w1DirOut : Statement .w1DirOut := fits (by decide)
theorem w2DriveHigh : Statement .w2DriveHigh := fits (by decide)
theorem w3HoldHigh : Statement .w3HoldHigh := fits (by decide)
theorem w4DriveLow : Statement .w4DriveLow := fits (by decide)
theorem w5HoldLow : Statement .w5HoldLow := fits (by decide)
theorem w6DriveRel : Statement .w6DriveRel := fits (by decide)
theorem w7HoldRel : Statement .w7HoldRel := fits (by decide)
theorem w8Listen : Statement .w8Listen := fits (by decide)
theorem sFatal : Statement .sFatal := fits (by decide)
theorem sFirst : Statement .sFirst := fits (by decide)
theorem sSame : Statement .sSame := fits (by decide)
theorem sTimeout : Statement .sTimeout := fits (by decide)
theorem sEdge : Statement .sEdge := fits (by decide)
theorem sCap : Statement .sCap := fits (by decide)
theorem cal (d : Byte) : Statement (.cal d) := obsWord_lt 2 d
theorem skip (d : Byte) : Statement (.skip d) := obsWord_lt 1 d
theorem data (i : Index) (d : Byte) : Statement (.data i d) := obsWord_lt i d
theorem dataSaturated (i : Index) (d : Byte) : Statement (.dataSaturated i d) := obsWord_lt i d
theorem ref (i : Index) (d : Byte) : Statement (.ref i d) := obsWord_lt i d
theorem endSeq : Statement .endSeq := fits (by decide)
theorem validate : Statement .validate := fits (by decide)
theorem convert : Statement .convert := fits (by decide)

end Sys2Proof.Laws.EncodeFits

namespace Sys2Proof.Laws.EncodeRow

/-- A well-formed operation has a row of the opcode table that its word matches, that rebuilds it from the word, and whose
condition is the operation's (R73). -/
def Statement (i : Instr) : Prop :=
  i.wellFormed = true → ∃ r ∈ opcodeRows, r.fmt = (encode i).1 ∧ (encode i).2 &&& r.mask = r.value ∧
    r.build (encode i).2 = i ∧ ∀ c, r.guard c = c.admits i

/-- The row at a place of the table. -/
theorem of_row {i : Instr} {r : Row} (k : Nat) (hr : opcodeRows[k]? = some r)
    (h : i.wellFormed = true → r.fmt = (encode i).1 ∧ (encode i).2 &&& r.mask = r.value ∧ r.build (encode i).2 = i ∧
      ∀ c, r.guard c = c.admits i) : Statement i :=
  fun hi => ⟨r, List.mem_of_getElem? hr, h hi⟩

theorem reset : Statement .reset := of_row 0 rfl fun _ => ⟨rfl, rfl, rfl, fun _ => rfl⟩

theorem start : Statement .start := of_row 1 rfl fun _ => ⟨rfl, rfl, rfl, fun _ => rfl⟩

theorem startIgnored : Statement .startIgnored := of_row 2 rfl fun _ => ⟨rfl, rfl, rfl, fun _ => rfl⟩

theorem nopIdle : Statement .nopIdle := of_row 3 rfl fun _ => ⟨rfl, rfl, rfl, fun _ => rfl⟩

theorem nopDone : Statement .nopDone := of_row 4 rfl fun _ => ⟨rfl, rfl, rfl, fun _ => rfl⟩

theorem nopFatal : Statement .nopFatal := of_row 5 rfl fun _ => ⟨rfl, rfl, rfl, fun _ => rfl⟩

theorem w1DirOut : Statement .w1DirOut := of_row 6 rfl fun _ => ⟨rfl, rfl, rfl, fun _ => rfl⟩

theorem w2DriveHigh : Statement .w2DriveHigh := of_row 7 rfl fun _ => ⟨rfl, rfl, rfl, fun _ => rfl⟩

theorem w3HoldHigh : Statement .w3HoldHigh := of_row 8 rfl fun _ => ⟨rfl, rfl, rfl, fun _ => rfl⟩

theorem w4DriveLow : Statement .w4DriveLow := of_row 9 rfl fun _ => ⟨rfl, rfl, rfl, fun _ => rfl⟩

theorem w5HoldLow : Statement .w5HoldLow := of_row 10 rfl fun _ => ⟨rfl, rfl, rfl, fun _ => rfl⟩

theorem w6DriveRel : Statement .w6DriveRel := of_row 11 rfl fun _ => ⟨rfl, rfl, rfl, fun _ => rfl⟩

theorem w7HoldRel : Statement .w7HoldRel := of_row 12 rfl fun _ => ⟨rfl, rfl, rfl, fun _ => rfl⟩

theorem w8Listen : Statement .w8Listen := of_row 13 rfl fun _ => ⟨rfl, rfl, rfl, fun _ => rfl⟩

theorem sFatal : Statement .sFatal := of_row 14 rfl fun _ => ⟨rfl, rfl, rfl, fun _ => rfl⟩

theorem sFirst : Statement .sFirst := of_row 15 rfl fun _ => ⟨rfl, rfl, rfl, fun _ => rfl⟩

theorem sSame : Statement .sSame := of_row 16 rfl fun _ => ⟨rfl, rfl, rfl, fun _ => rfl⟩

theorem sTimeout : Statement .sTimeout := of_row 17 rfl fun _ => ⟨rfl, rfl, rfl, fun _ => rfl⟩

theorem sEdge : Statement .sEdge := of_row 18 rfl fun _ => ⟨rfl, rfl, rfl, fun _ => rfl⟩

theorem sCap : Statement .sCap := of_row 19 rfl fun _ => ⟨rfl, rfl, rfl, fun _ => rfl⟩

theorem cal (d : Byte) : Statement (.cal d) := by
  refine of_row 20 rfl fun _ => ⟨rfl, ?_, congrArg _ (obsWord_duration _ d), fun _ => rfl⟩
  exact (obsWord_and _ 0x7F d 0).trans (by rw [show d &&& 0 = 0 from BitVec.and_zero]; rfl)

theorem skip (d : Byte) : Statement (.skip d) := by
  refine of_row 21 rfl fun _ => ⟨rfl, ?_, congrArg _ (obsWord_duration _ d), fun _ => rfl⟩
  exact (obsWord_and _ 0x7F d 0).trans (by rw [show d &&& 0 = 0 from BitVec.and_zero]; rfl)

theorem data (i : Index) (d : Byte) : Statement (.data i d) := by
  refine of_row 22 rfl fun h => ⟨rfl, ?_, congrArg₂ _ (obsWord_index i d) (obsWord_duration i d), fun _ => rfl⟩
  have ho : i.toNat % 2 = 1 := by
    simp only [Instr.wellFormed, Index.isData, Bool.and_eq_true, beq_iff_eq] at h
    exact h.1
  exact (obsWord_and i 1 d 0).trans (by rw [(odd_iff_and_one i).1 ho, show d &&& 0 = 0 from BitVec.and_zero]; rfl)

theorem dataSaturated (i : Index) (d : Byte) : Statement (.dataSaturated i d) := by
  refine of_row 23 rfl fun h => ⟨rfl, ?_, congrArg₂ _ (obsWord_index i d) (obsWord_duration i d), fun _ => rfl⟩
  have ho : i.toNat % 2 = 1 := by
    simp only [Instr.wellFormed, Index.isData, Bool.and_eq_true, beq_iff_eq] at h
    exact h.1
  exact (obsWord_and i 1 d 0).trans (by rw [(odd_iff_and_one i).1 ho, show d &&& 0 = 0 from BitVec.and_zero]; rfl)

theorem ref (i : Index) (d : Byte) : Statement (.ref i d) := by
  refine of_row 24 rfl fun h => ⟨rfl, ?_, congrArg₂ _ (obsWord_index i d) (obsWord_duration i d), fun _ => rfl⟩
  have he : i.toNat % 2 = 0 := by
    simp only [Instr.wellFormed, Index.isRef, Bool.and_eq_true, beq_iff_eq] at h
    exact h.1
  exact (obsWord_and i 1 d 0).trans (by rw [(even_iff_and_one i).1 he, show d &&& 0 = 0 from BitVec.and_zero]; rfl)

theorem endSeq : Statement .endSeq := of_row 25 rfl fun _ => ⟨rfl, rfl, rfl, fun _ => rfl⟩

theorem validate : Statement .validate := of_row 26 rfl fun _ => ⟨rfl, rfl, rfl, fun _ => rfl⟩

theorem convert : Statement .convert := of_row 27 rfl fun _ => ⟨rfl, rfl, rfl, fun _ => rfl⟩

end Sys2Proof.Laws.EncodeRow
end

