-- ==== Sys2Proof/Tests/Slice0.lean ====
section
/-! SUPPORT. The model's own tests: ill-formed terms, words written out from the spec's encodings, single steps with results taken
from the spec's examples and vectors, and a witness for the hypotheses of every statement. -/

namespace Sys2Proof.Tests

open Sys2Proof Sys2Proof.Machine

/-! ## Helpers -/

/-- The next state of a step, if it answers one. -/
def stepped (s : State) : Option State :=
  match step s with
  | .next t => some t
  | .fault _ => none
  | .refused _ => none

/-- The next state of one operation, if it answers one. -/
def ran (i : Instr) (s : State) : Option State :=
  match exec i s with
  | .next t => some t
  | .fault _ => none
  | .refused _ => none

theorem exists_step {s : State} (p : State → Bool) (h : (stepped s).any p = true) :
    ∃ t, step s = .next t ∧ p t = true := by
  unfold stepped at h
  cases hs : step s with
  | next t => exact ⟨t, rfl, by simpa [hs] using h⟩
  | fault r => simp [hs] at h
  | refused r => simp [hs] at h

theorem exists_exec {i : Instr} {s : State} (p : State → Bool) (h : (ran i s).any p = true) :
    ∃ t, exec i s = .next t ∧ p t = true := by
  unfold ran at h
  cases hs : exec i s with
  | next t => exact ⟨t, rfl, by simpa [hs] using h⟩
  | fault r => simp [hs] at h
  | refused r => simp [hs] at h

/-- A tick with a raw sample. -/
def tickOf (raw : Nat) : Inputs := { quietInputs with tick := true, lineIn := raw }
/-- An edge on which the delay is answered. -/
def answered : Inputs := { quietInputs with dlyDone := true }
/-- An edge with START. -/
def started : Inputs := { quietInputs with start := true }
/-- An edge with RESET. -/
def resetting : Inputs := { quietInputs with rst := true }

/-- The registers after RESET, in a phase, with the inputs of the next edges. -/
def inPhase (p : Phase) (es : List Inputs) : State := { State.reset with phase := p, pending := es }

/-- In SAMPLE, an interval at LOW in progress, `cnt` samples long, no entry recorded. -/
def sampling (cnt : Byte) (es : List Inputs) : State :=
  { inPhase .sample es with heldValid := true, held := .low, cnt := cnt }

/-- In SAMPLE of 95_test_vectors.md T27 before its last tick: one entry, `cnt = 2`, `held = 0`. -/
def sampling1 (es : List Inputs) : State :=
  { sampling 2 es with widx := 1, obsLen := 1, obs := [(0, 5)] }

/-- In SAMPLE with 81 entries recorded. -/
def sampling81 (es : List Inputs) : State :=
  { sampling 17 es with
    widx := 81, obsLen := 81, held := .high, obs := (List.range 81).map fun a => (a, 1) }

/-- In DECODE of 95_test_vectors.md T11a, `ridx` observations consumed of four. -/
def decoding (ridx : Index) (ref maxHigh : Byte) (es : List Inputs) : State :=
  { inPhase .decode es with
    widx := 4, obsLen := 4, obs := [(0, 5), (1, 5), (2, 12), (3, 12)], timeout := true, ridx := ridx, ref := ref,
    maxHigh := maxHigh }

/-- 42_validate_convert.md, the payload of the rules' examples. -/
def goodPayload : Payload := ⟨0x01, 0x90, 0x00, 0xC8, 0x59⟩

/-- In DONE with the results of 95_test_vectors.md S3. -/
def doneSuccess (es : List Inputs) : State :=
  { inPhase .done es with
    widx := 82, obsLen := 82, ridx := 82, obs := (List.range 82).map fun a => (a, 0), capHit := true,
    bitCount := 40, payload := goodPayload, csumCalc := 0x59, complete := true, csumOk := true, success := true,
    status := .success, humX10 := 400, tempMagX10 := 200, done := true }

/-- In DONE with the results of 95_test_vectors.md S2: the fifth byte is 58. -/
def doneMismatch (es : List Inputs) : State :=
  { doneSuccess es with
    payload := ⟨0x01, 0x90, 0x00, 0xC8, 0x58⟩, csumOk := false, success := false, status := .checksumMismatch }

/-- In DONE with the results of 95_test_vectors.md T9: nothing recorded. -/
def doneEmpty (es : List Inputs) : State :=
  { inPhase .done es with timeout := true, csumOk := true, done := true }

/-- In FATAL as 43_control.md R171's example has it. -/
def stopped (es : List Inputs) : State := { inPhase .fatal es with fatal := true, fatalValue := 2 }

/-- In a hold of the low drive. -/
def holdingLow (es : List Inputs) : State :=
  { inPhase .wLowHold es with lineOe := .output, lineOut := .low }

/-! ## WellFormed refuses ill-formed terms (30_encoding.md R72, R73) -/

theorem test_refused_data_index_one : Instr.wellFormed (.data 1 20) = false := by decide

theorem test_refused_data_even_index : Instr.wellFormed (.data 4 12) = false := by decide

theorem test_refused_data_saturated_index_one : Instr.wellFormed (.dataSaturated 1 20) = false := by decide

theorem test_refused_data_saturated_even_index : Instr.wellFormed (.dataSaturated 82 12) = false := by decide

theorem test_refused_ref_odd_index : Instr.wellFormed (.ref 3 12) = false := by decide

theorem test_refused_ref_calibration_index : Instr.wellFormed (.ref 2 12) = false := by decide

theorem test_accepted_bounds :
    Instr.wellFormed (.data 3 0) = true ∧ Instr.wellFormed (.data 127 255) = true ∧ Instr.wellFormed (.ref 0 0) = true ∧
      Instr.wellFormed (.ref 126 255) = true ∧ Instr.wellFormed (.ref 4 0) = true := by decide


/-! ## Every constructor's word, written out from its encoding (R70 to R77, R31) -/

theorem test_decode_reset : (decode ⟨true, false⟩ .cmd 0b10).toOption = some (.reset) := by decide

theorem test_decode_reset_with_start : (decode ⟨true, false⟩ .cmd 0b11).toOption = some (.reset) := by decide

theorem test_decode_start : (decode ⟨true, false⟩ .cmd 0b01).toOption = some (.start) := by decide

theorem test_decode_start_ignored : (decode ⟨false, false⟩ .cmd 0b01).toOption = some (.startIgnored) := by decide

theorem test_decode_nop_idle : (decode ⟨true, false⟩ .ph 0b0000).toOption = some (.nopIdle) := by decide

theorem test_decode_nop_done : (decode ⟨true, false⟩ .ph 0b1101).toOption = some (.nopDone) := by decide

theorem test_decode_nop_fatal : (decode ⟨false, false⟩ .ph 0b1110).toOption = some (.nopFatal) := by decide

theorem test_decode_w1 : (decode ⟨false, false⟩ .ph 0b0001).toOption = some (.w1DirOut) := by decide

theorem test_decode_w2 : (decode ⟨false, false⟩ .ph 0b0010).toOption = some (.w2DriveHigh) := by decide

theorem test_decode_w3 : (decode ⟨false, false⟩ .ph 0b0011).toOption = some (.w3HoldHigh) := by decide

theorem test_decode_w4 : (decode ⟨false, false⟩ .ph 0b0100).toOption = some (.w4DriveLow) := by decide

theorem test_decode_w5 : (decode ⟨false, false⟩ .ph 0b0101).toOption = some (.w5HoldLow) := by decide

theorem test_decode_w6 : (decode ⟨false, false⟩ .ph 0b0110).toOption = some (.w6DriveRel) := by decide

theorem test_decode_w7 : (decode ⟨false, false⟩ .ph 0b0111).toOption = some (.w7HoldRel) := by decide

theorem test_decode_w8 : (decode ⟨false, false⟩ .ph 0b1000).toOption = some (.w8Listen) := by decide

theorem test_decode_s_fatal : (decode ⟨false, false⟩ .sc 0b11111).toOption = some (.sFatal) := by decide

theorem test_decode_s_first : (decode ⟨false, false⟩ .sc 0b01101).toOption = some (.sFirst) := by decide

theorem test_decode_s_same : (decode ⟨false, false⟩ .sc 0b00101).toOption = some (.sSame) := by decide

theorem test_decode_s_timeout : (decode ⟨false, false⟩ .sc 0b00111).toOption = some (.sTimeout) := by decide

theorem test_decode_s_edge : (decode ⟨false, false⟩ .sc 0b00010).toOption = some (.sEdge) := by decide

theorem test_decode_s_cap : (decode ⟨false, false⟩ .sc 0b00001).toOption = some (.sCap) := by decide

theorem test_decode_cal : (decode ⟨false, false⟩ .obs 0b000001000001100).toOption = some (.cal 12) := by decide

theorem test_decode_skip : (decode ⟨false, false⟩ .obs 0b000000100010100).toOption = some (.skip 20) := by decide

theorem test_decode_data : (decode ⟨false, false⟩ .obs 0b000001100010001).toOption = some (.data 3 17) := by decide

theorem test_decode_data_saturated : (decode ⟨false, true⟩ .obs 0b101001100010001).toOption = some (.dataSaturated 83 17) := by decide

theorem test_decode_ref : (decode ⟨false, false⟩ .obs 0b101000000001100).toOption = some (.ref 80 12) := by decide

theorem test_decode_ref_zero : (decode ⟨false, true⟩ .obs 0b000000000000101).toOption = some (.ref 0 5) := by decide

theorem test_decode_end_seq : (decode ⟨false, false⟩ .ph 0b1010).toOption = some (.endSeq) := by decide

theorem test_decode_validate : (decode ⟨false, false⟩ .ph 0b1011).toOption = some (.validate) := by decide

theorem test_decode_convert : (decode ⟨false, false⟩ .ph 0b1100).toOption = some (.convert) := by decide

theorem test_refused_word_no_command : (decode ⟨true, false⟩ .cmd 0b00).toOption = none := by decide

theorem test_refused_word_sample_phase : (decode ⟨true, false⟩ .ph 0b1001).toOption = none := by decide

theorem test_refused_word_unused_phase : (decode ⟨true, false⟩ .ph 0b1111).toOption = none := by decide

theorem test_refused_word_wide_command : (decode ⟨true, false⟩ .cmd 0b100).toOption = none := by decide

theorem test_refused_word_wide_observation : (decode ⟨true, false⟩ .obs 0x8000).toOption = none := by decide


/-- 95_test_vectors.md T12's words. -/
theorem test_decode_t12_words :
    ([0x0005, 0x0114, 0x020A, 0x030A, 0x0414, 0x0513] : List OpWord).map (fun w => (decode ⟨false, false⟩ .obs w).toOption) =
      [some (.ref 0 5), some (.skip 20), some (.cal 10), some (.data 3 10), some (.ref 4 20), some (.data 5 19)] := by
  decide

/-! ## A table word put next runs -/

theorem test_place_edge :
    (stepped (State.reset.withFetchWord 5 0b00000)).map (fun t => (t.phase, t.obsLen, t.edge)) =
      some (.sample, 1, 1) := by decide

theorem test_place_data :
    decodeTableWord 16 0x0311 = some (.data 3 17) ∧
      (stepped (State.reset.withFetchWord 16 0x0311)).map (fun t => (t.bitCount, t.payload.humidityHigh, t.ridx)) =
        some (1, 1, 4) := by decide

theorem test_place_validate :
    decodeTableWord 8 0b1011 = some .validate ∧
      (stepped (State.reset.withFetchWord 8 0b1011)).map (·.phase) = some .convert := by decide

/-! ## The buffer -/

/-- Entries stay sorted, and a second write of an address replaces its value. -/
theorem test_memory_canonical :
    Memory.write (Memory.write (Memory.write [] 3 7) 1 9) 3 8 = [(1, 9), (3, 8)] ∧
      Memory.wf [(1, 9), (3, 8)] = true ∧ Memory.wf [(3, 8), (1, 9)] = false ∧ Memory.wf [(1, 9), (1, 9)] = false := by
  decide

/-! ## One step or one operation each, results from the spec's examples and vectors -/

/-- R171's example, T59. -/
theorem test_reset_leaves_fatal :
    (stepped (stopped [resetting])).map (fun t => (t.phase, t.fatal, t.fatalValue, t.status)) =
      some (.idle, false, 0, .incompleteFrame) := by decide

/-- T52. -/
theorem test_reset_wins_over_start :
    (stepped (doneSuccess [{ resetting with start := true }])).map (fun t => (t.phase, t.done)) = some (.idle, false) := by decide

/-- R172's example, T53. -/
theorem test_start_clears_the_results :
    (stepped (doneSuccess [started])).map (fun t => (t.phase, t.done, t.payload.bytes, t.bitCount, t.status)) =
      some (.wDirOut, false, [0, 0, 0, 0, 0], 0, .incompleteFrame) := by decide

/-- T51. -/
theorem test_start_while_busy_is_lost :
    (stepped (sampling 7 [{ tickOf 0 with start := true }])).map (fun t => (t.phase, t.cnt)) = some (.sample, 8) := by decide

/-- T58. -/
theorem test_start_in_fatal_is_ignored :
    (stepped (stopped [started])).map (fun t => (t.phase, t.fatal, t.fatalValue)) = some (.fatal, true, 2) := by decide

/-- R174, T61. -/
theorem test_nop_idle :
    (stepped (inPhase .idle [tickOf 1])).map (fun t => (t.phase, t.done, t.status)) = some (.idle, false, .incompleteFrame) := by decide

/-- R174. -/
theorem test_nop_done :
    (stepped (doneSuccess [tickOf 9])).map (fun t => (t.phase, t.status, t.humX10)) = some (.done, .success, 400) := by decide

/-- R174. -/
theorem test_nop_fatal :
    (stepped (stopped [tickOf 5])).map (fun t => (t.phase, t.fatalValue)) = some (.fatal, 2) := by decide

/-- R100's example. -/
theorem test_w1_drives_high :
    (ran .w1DirOut (inPhase .wDirOut [])).map (fun t => (t.lineOe, t.lineOut, t.phase)) = some (.output, .high, .wHigh) := by decide

/-- R101's example. -/
theorem test_w2_requests_100 :
    (ran .w2DriveHigh (inPhase .wHigh [])).map (fun t => (t.lineOut, t.dly, t.phase)) =
      some (.high, some ⟨.timeUnit, 100⟩, .wHighHold) := by decide

/-- R102's example. -/
theorem test_w3_waits :
    ((stepped (inPhase .wHighHold [quietInputs])).map (·.phase) = some .wHighHold) ∧
      (stepped (inPhase .wHighHold [answered])).map (·.phase) = some .wLow := by decide

/-- R103's example. -/
theorem test_w4_drives_low :
    (ran .w4DriveLow (inPhase .wLow [])).map (fun t => (t.lineOut, t.phase)) = some (.low, .wLowHold) := by decide

/-- R104, T55. -/
theorem test_w5_waits :
    ((stepped (holdingLow [quietInputs])).map (·.phase) = some .wLowHold) ∧
      (stepped (holdingLow [answered])).map (·.phase) = some .wRel := by decide

/-- R105's example. -/
theorem test_w6_drives_high :
    (ran .w6DriveRel { holdingLow [] with phase := .wRel }).map (fun t => (t.lineOut, t.dly.map (·.unit), t.phase)) =
      some (.high, some .microTimeUnit, .wRelHold) := by decide

/-- R106. -/
theorem test_w7_waits :
    ((stepped (inPhase .wRelHold [quietInputs])).map (·.phase) = some .wRelHold) ∧
      (stepped (inPhase .wRelHold [answered])).map (·.phase) = some .wListen := by decide

/-- R107's example. -/
theorem test_w8_listens :
    (ran .w8Listen { inPhase .wListen [] with lineOe := .output }).map (fun t => (t.lineOe, t.heldValid, t.phase)) =
      some (.input, false, .sample) := by decide

/-- T56. -/
theorem test_no_tick_no_read :
    (stepped (sampling 7 [{ quietInputs with lineIn := 9 }])).map (fun t => (t.phase, t.cnt)) = some (.sample, 7) := by decide

/-- T27. -/
theorem test_s_fatal :
    (stepped (sampling1 [tickOf 2])).map (fun t => (t.phase, t.fatal, t.fatalValue, t.cnt, t.obsLen, t.done)) =
      some (.fatal, true, 2, 2, 1, false) := by decide

/-- T29. -/
theorem test_s_fatal_before_timeout :
    (stepped (sampling 254 [tickOf 3])).map (fun t => (t.phase, t.timeout, t.cnt)) = some (.fatal, false, 254) := by decide

/-- R109's example. -/
theorem test_s_first :
    (stepped (inPhase .sample [tickOf 0])).map (fun t => (t.held, t.heldValid, t.cnt)) = some (.low, true, 1) := by decide

/-- R110's example. -/
theorem test_s_same :
    (stepped (sampling 7 [tickOf 0])).map (fun t => (t.cnt, t.phase)) = some (8, .sample) := by decide

/-- R111's example. -/
theorem test_s_timeout :
    (stepped { sampling 254 [tickOf 1] with held := .high }).map (fun t => (t.timeout, t.cnt, t.phase, t.obsLen, t.obs.length)) =
      some (true, 0, .decode, 0, 0) := by decide

/-- R112's example. -/
theorem test_s_edge :
    (stepped { sampling 12 [tickOf 1] with widx := 2 }).map (fun t => (t.obs, t.obsLen, t.widx, t.held, t.cnt)) =
      some ([(2, 12)], 3, 3, .high, 0) := by decide

/-- R113's example. -/
theorem test_s_cap :
    (stepped (sampling81 [tickOf 0])).map
        (fun t => (Memory.read t.obs 81, t.obsLen, t.capHit, t.timeout, t.phase)) =
      some (some 17, 82, true, false, .decode) := by decide

/-- R131's example. -/
theorem test_ref :
    (ran (.ref 4 12) { decoding 3 7 7 [] with ridx := 4 }).map (fun t => (t.ref, t.maxHigh, t.bitCount, t.ridx)) =
      some (12, 7, 0, 5) := by decide

/-- R132's example. -/
theorem test_cal :
    (stepped (decoding 2 5 0 [quietInputs])).map (fun t => (t.ref, t.maxHigh, t.bitCount, t.ridx)) = some (12, 12, 0, 3) := by decide

/-- R133's example. -/
theorem test_skip :
    (ran (.skip 20) (decoding 1 5 0 [])).map (fun t => (t.ref, t.maxHigh, t.bitCount, t.ridx)) = some (5, 0, 0, 2) := by decide

/-- R134's example: 17 then, instead, 6 against a reference of 12. -/
theorem test_data :
    ((ran (.data 19 17) { decoding 3 12 12 [] with bitCount := 8 }).map (fun t => (t.payload.humidityLow, t.bitCount)) = some (1, 9)) ∧
      (ran (.data 19 6) { decoding 3 12 12 [] with bitCount := 8 }).map (fun t => (t.payload.humidityLow, t.bitCount)) = some (0, 9) := by decide

/-- T11a: a tie gives 1. -/
theorem test_data_tie :
    (stepped (decoding 3 12 12 [quietInputs])).map (fun t => (t.payload.bytes, t.bitCount, t.ridx)) =
      some ([1, 0, 0, 0, 0], 1, 4) := by decide

/-- R135's example. -/
theorem test_data_saturated :
    (ran (.dataSaturated 83 255) { decoding 3 12 12 [] with bitCount := 40, payload := goodPayload }).map
        (fun t => (t.payload, t.bitCount, t.ridx)) = some (goodPayload, 40, 4) := by decide

/-- R136's example. -/
theorem test_end_seq :
    (stepped { decoding 4 12 12 [quietInputs] with ridx := 4 }).map (fun t => (t.phase, t.ridx)) = some (.validate, 4) := by decide

/-- R150's example. -/
theorem test_validate_success :
    (ran .validate { inPhase .validate [] with payload := goodPayload, bitCount := 40 }).map
        (fun t => (t.csumCalc, t.complete, t.csumOk, t.success, t.status)) = some (0x59, true, true, true, .success) := by decide

/-- T40 and T43: the sum is truncated, and 39 bits are incomplete. -/
theorem test_validate_truncates :
    ((ran .validate { inPhase .validate [] with payload := ⟨0xFF, 0xFF, 0xFF, 0xFF, 0xFC⟩, bitCount := 40 }).map
        (fun t => (t.csumCalc, t.status)) = some (0xFC, .success)) ∧
      (ran .validate { inPhase .validate [] with payload := goodPayload, bitCount := 39 }).map
        (fun t => (t.complete, t.csumOk, t.success, t.status)) = some (false, true, false, .incompleteFrame) := by decide

/-- R160's example. -/
theorem test_convert :
    (ran .convert { inPhase .convert [] with payload := goodPayload }).map
        (fun t => (t.humX10, t.tempNeg, t.tempMagX10, t.done, t.phase)) = some (400, false, 200, true, .done) := by decide

/-- S4. -/
theorem test_convert_negative :
    (ran .convert { inPhase .convert [] with payload := ⟨0x01, 0x90, 0x8A, 0x0A, 0x25⟩ }).map
        (fun t => (t.humX10, t.tempNeg, t.tempMagX10)) = some (400, true, 2570) := by decide

/-- R86: code 3 is no status and code 15 no phase. -/
theorem test_codes : phaseCode .fatal = 14 ∧ statusCode .checksumMismatch = 2 := by decide

/-- R112, R50: no entry at `MAX_OBS`: the storing operation stops by name (log entry 12). -/
theorem test_no_entry_at_the_cap :
    exec .sEdge { sampling 3 [tickOf 1] with widx := 82 } = .fault (.noSuchEntry 82) := rfl

/-! ## Witnesses: states and operands that meet the hypotheses of the statements -/

/-! ### States of the invariant -/

theorem witness_inv_idle : Inv (inPhase .idle [quietInputs]) :=
  ⟨by decide, by decide, by decide, by decide, by decide, by decide, by decide, by decide⟩

theorem witness_inv_start : Inv (inPhase .idle [started]) :=
  ⟨by decide, by decide, by decide, by decide, by decide, by decide, by decide, by decide⟩

theorem witness_inv_first : Inv (inPhase .sample [tickOf 0]) :=
  ⟨by decide, by decide, by decide, by decide, by decide, by decide, by decide, by decide⟩

theorem witness_inv_sampling : Inv (sampling 7 [tickOf 0]) :=
  ⟨by decide, by decide, by decide, by decide, by decide, by decide, by decide, by decide⟩

theorem witness_inv_last_count : Inv (sampling 254 [tickOf 0]) :=
  ⟨by decide, by decide, by decide, by decide, by decide, by decide, by decide, by decide⟩

theorem witness_inv_sampling1 : Inv (sampling1 [tickOf 1]) :=
  ⟨by decide, by decide, by decide, by decide, by decide, by decide, by decide, by decide⟩

theorem witness_inv_sampling81 : Inv (sampling81 [tickOf 0]) :=
  ⟨by decide, by decide, by decide, by decide, by decide, by decide, by decide, by decide⟩

theorem witness_inv_invalid : Inv (sampling1 [tickOf 2]) :=
  ⟨by decide, by decide, by decide, by decide, by decide, by decide, by decide, by decide⟩

theorem witness_inv_decoding_first : Inv (decoding 0 0 0 [quietInputs]) :=
  ⟨by decide, by decide, by decide, by decide, by decide, by decide, by decide, by decide⟩

theorem witness_inv_decoding_last : Inv (decoding 3 12 12 [quietInputs]) :=
  ⟨by decide, by decide, by decide, by decide, by decide, by decide, by decide, by decide⟩

theorem witness_inv_done_success : Inv (doneSuccess [started]) :=
  ⟨by decide, by decide, by decide, by decide, by decide, by decide, by decide, by decide⟩

theorem witness_inv_done_mismatch : Inv (doneMismatch [started]) :=
  ⟨by decide, by decide, by decide, by decide, by decide, by decide, by decide, by decide⟩

theorem witness_inv_done_empty : Inv (doneEmpty [started]) :=
  ⟨by decide, by decide, by decide, by decide, by decide, by decide, by decide, by decide⟩

theorem witness_inv_stopped : Inv (stopped [resetting]) :=
  ⟨by decide, by decide, by decide, by decide, by decide, by decide, by decide, by decide⟩

theorem witness_inv_holding_low : Inv (holdingLow [answered]) :=
  ⟨by decide, by decide, by decide, by decide, by decide, by decide, by decide, by decide⟩

/-! ### One witness per statement with hypotheses -/

/-- The conditions and index bounds of every row with an operand. -/
theorem witness_DecodeOfEncodeIsTheInstruction :
    (Instr.wellFormed (.data 3 0) = true ∧ Cond.admits ⟨true, false⟩ (.data 3 0) = true) ∧
      (Instr.wellFormed (.data 127 255) = true ∧ Cond.admits ⟨false, false⟩ (.data 127 255) = true) ∧
      (Instr.wellFormed (.dataSaturated 83 255) = true ∧ Cond.admits ⟨false, true⟩ (.dataSaturated 83 255) = true) ∧
      (Instr.wellFormed (.ref 0 0) = true ∧ Cond.admits ⟨true, true⟩ (.ref 126 255) = true) ∧
      Cond.admits ⟨true, false⟩ .start = true ∧ Cond.admits ⟨false, false⟩ .startIgnored = true :=
  by decide

/-- A word of each format that decodes. -/
theorem witness_DecodedInstructionIsWellFormed :
    decode ⟨true, false⟩ .cmd 0b11 = .ok .reset ∧ decode ⟨true, false⟩ .ph 0b1110 = .ok .nopFatal ∧
      decode ⟨true, false⟩ .sc 0b11111 = .ok .sFatal ∧ decode ⟨true, false⟩ .obs 0x7F00 = .ok (.data 127 0) :=
  ⟨rfl, rfl, rfl, rfl⟩

/-- Words at the ends of the formats, and a first tick in SAMPLE. -/
theorem witness_DecodeIsTheFirstMatchingRow :
    ((0x7FFF : OpWord).toNat < 2 ^ Format.obs.width ∧ (31 : OpWord).toNat < 32) ∧
      ∃ s : State, Inv s ∧ s.phase = .sample ∧ condFirst s = true :=
  ⟨by decide, _, witness_inv_first, rfl, rfl⟩

/-- A tick, an observation and a command. -/
theorem witness_StepRunsTheDecodedInstruction :
    (∃ (s : State) (i : Instr), fetch s = .word .sc 0b00100 ∧ decode (condOf s) .sc 0b00100 = .ok i) ∧
      (∃ (s : State) (i : Instr), fetch s = .word .obs 0x030C ∧ decode (condOf s) .obs 0x030C = .ok i) ∧
      ∃ (s : State) (i : Instr), fetch s = .word .cmd 0b01 ∧ decode (condOf s) .cmd 0b01 = .ok i :=
  ⟨⟨sampling 7 [tickOf 0], .sSame, rfl, rfl⟩, ⟨decoding 3 12 12 [quietInputs], .data 3 12, rfl, rfl⟩,
    ⟨inPhase .idle [started], .start, rfl, rfl⟩⟩

/-- A phase word and a condition word. -/
theorem witness_EveryFetchedWordDecodes :
    fetch (inPhase .wListen [quietInputs]) = .word .ph 8 ∧ fetch (sampling1 [tickOf 2]) = .word .sc 0b10000 :=
  ⟨rfl, rfl⟩

/-- States of the invariant in several phases. -/
theorem witness_StepNeverStopsUnderTheInvariant :
    Inv (inPhase .idle [quietInputs]) ∧ Inv (sampling81 [tickOf 0]) ∧ Inv (decoding 3 12 12 [quietInputs]) ∧
      Inv (stopped [resetting]) :=
  ⟨witness_inv_idle, witness_inv_sampling81, witness_inv_decoding_last, witness_inv_stopped⟩

/-- The last entry, the last observation and a fatal stop, each with its next state. -/
theorem witness_StepKeepsTheInvariant :
    (∃ s t : State, Inv s ∧ step s = .next t ∧ t.phase = .decode) ∧ (∃ s t : State, Inv s ∧ step s = .next t ∧ t.bitCount = 1) ∧
      ∃ s t : State, Inv s ∧ step s = .next t ∧ t.phase = .fatal :=
  by
  obtain ⟨t, h, p⟩ := exists_step (s := sampling81 [tickOf 0]) (fun t => t.phase == .decode) (by decide)
  obtain ⟨u, k, q⟩ := exists_step (s := decoding 3 12 12 [quietInputs]) (fun t => t.bitCount == 1) (by decide)
  obtain ⟨v, l, r⟩ := exists_step (s := sampling1 [tickOf 2]) (fun t => t.phase == .fatal) (by decide)
  exact ⟨⟨_, t, witness_inv_sampling81, h, by simpa using p⟩, ⟨_, u, witness_inv_decoding_last, k, by simpa using q⟩,
    ⟨_, v, witness_inv_invalid, l, by simpa using r⟩⟩

/-- A step from a hold. -/
theorem witness_PhaseFollowsTheTransitionTable :
    ∃ t, step (holdingLow [answered]) = .next t ∧ (t.phase == .wRel) = true :=
  exists_step _ (by decide)

/-- RESET at an edge in FATAL, and its next state. -/
theorem witness_ResetLoadsTheResetValues :
    (stopped [resetting]).now.rst = true ∧ (stopped [resetting]).phase = .fatal ∧
      ∃ t, step (stopped [resetting]) = .next t ∧ (t.phase != .fatal) = true :=
  ⟨rfl, rfl, exists_step _ (by decide)⟩

/-- START alone in IDLE and in DONE. -/
theorem witness_StartLoadsTheStartValues :
    ((inPhase .idle [started]).now.rst = false ∧ (inPhase .idle [started]).now.start = true ∧
        (inPhase .idle [started]).phase = .idle) ∧
      (doneSuccess [started]).now.start = true ∧ (doneSuccess [started]).phase = .done :=
  ⟨⟨rfl, rfl, rfl⟩, rfl, rfl⟩

/-- START in SAMPLE and in FATAL, and a presented word. -/
theorem witness_IgnoredStartLeavesThePhaseOperation :
    (∃ s : State, s.now.rst = false ∧ s.now.start = true ∧ s.phase ≠ .idle ∧ s.phase ≠ .done ∧ s.phase = .fatal) ∧
      ∃ (s : State) (i : Instr), s.now.start = true ∧ fetchPhase s = .word .sc 0b00100 ∧ decode (condOf s) .sc 0b00100 = .ok i :=
  ⟨⟨stopped [started], rfl, rfl, by decide, by decide, rfl⟩,
    ⟨sampling 7 [{ tickOf 0 with start := true }], .sSame, rfl, rfl, rfl⟩⟩

/-- Each of the five cases: IDLE, DONE, FATAL, a hold, SAMPLE; in FATAL with an ignored START. -/
theorem witness_NothingHappensWithoutACause :
    noCommand (inPhase .idle [quietInputs]) ∧ noCommand (doneSuccess [quietInputs]) ∧ noCommand (stopped [started]) ∧
      (noCommand (holdingLow [quietInputs]) ∧ (holdingLow [quietInputs]).now.dlyDone = false) ∧
      noCommand (sampling 7 [quietInputs]) ∧ (sampling 7 [quietInputs]).now.tick = false :=
  ⟨⟨rfl, nofun⟩, ⟨rfl, nofun⟩, ⟨rfl, fun _ => rfl⟩, ⟨⟨rfl, nofun⟩, rfl⟩, ⟨rfl, nofun⟩, rfl⟩

/-- A finished exchange. -/
theorem witness_StartFromDoneIsStartAfterReset :
    Inv (doneSuccess [started]) ∧ (doneSuccess [started]).phase = .done :=
  ⟨witness_inv_done_success, rfl⟩

/-- A tick in SAMPLE with the least invalid sample. -/
theorem witness_FatalStopIsPrecise :
    ∃ s : State, s.now.rst = false ∧ s.phase = .sample ∧ s.now.tick = true ∧ s.now.lineIn ≠ 0 ∧ s.now.lineIn ≠ 1 ∧ s.now.lineIn = 2 :=
  ⟨sampling1 [tickOf 2], rfl, rfl, rfl, by decide, by decide, rfl⟩

/-- A step into FATAL. -/
theorem witness_OnlyAnInvalidSampleRaisesFatal :
    (sampling1 [tickOf 2]).phase ≠ .fatal ∧ ∃ t, step (sampling1 [tickOf 2]) = .next t ∧ (t.phase == .fatal) = true :=
  ⟨by decide, exists_step _ (by decide)⟩

/-- FATAL with an ignored START, and with RESET. -/
theorem witness_FatalIsLeftOnlyByReset :
    ((stopped [started]).phase = .fatal ∧ (stopped [started]).now.rst = false) ∧ (stopped [resetting]).now.rst = true :=
  ⟨⟨rfl, rfl⟩, rfl⟩

/-- Each point: an invalid sample at the ceiling and at the cap, FATAL, 39 bits, RESET at an invalid tick (T29, T60). -/
theorem witness_PriorityOfSimultaneousConditions :
    (∃ t, step (sampling 254 [tickOf 3]) = .next t ∧ (t.phase == .fatal) = true) ∧
      (∃ t, step (sampling81 [tickOf 2]) = .next t ∧ (t.phase == .fatal) = true) ∧
      (∃ t, step (stopped [started]) = .next t ∧ (t.phase == .fatal) = true) ∧
      (∃ t, exec .validate { inPhase .validate [] with bitCount := 39 } = .next t ∧ (t.phase == .convert) = true) ∧
      Inv (sampling81 [tickOf 0]) ∧ (sampling 7 [{ tickOf 5 with rst := true }]).now.rst = true :=
  ⟨exists_step _ (by decide), exists_step _ (by decide), exists_step _ (by decide), exists_exec _ (by decide),
    witness_inv_sampling81, rfl⟩

/-- The least invalid sample. -/
theorem witness_LevelTicksOnAnInvalidSampleStopFatally :
    Instr.sCap ∈ levelTicks ∧ (sampling1 [tickOf 2]).now.lineIn ≠ 0 ∧ (sampling1 [tickOf 2]).now.lineIn ≠ 1 :=
  by decide

/-- W_DIR_OUT with every delay answered. -/
theorem witness_WakeUpSequenceIsInOrder :
    ∃ s : State, s.phase = .wDirOut ∧ s.lineOut = .high ∧ noResetFor 8 s ∧ (s.inputsAt 2).dlyDone = true ∧
      (s.inputsAt 4).dlyDone = true ∧ (s.inputsAt 6).dlyDone = true :=
  ⟨inPhase .wDirOut (List.replicate 8 answered), rfl, rfl, by unfold noResetFor; decide, rfl, rfl, rfl⟩

/-- Another choice of the four parameters, and a step that requests a delay. -/
theorem witness_RealTimeParametersAreNeverCompared :
    (∃ c : Config, c.maxObs = Config.default.maxObs ∧ c.ceil = Config.default.ceil ∧ c.tIdleHigh = 250 ∧ c.tTick = some 4) ∧
      ∃ t, step (inPhase .wHigh [quietInputs]) = .next t ∧ (t.phase == .wHighHold) = true :=
  ⟨⟨{ Config.default with tIdleHigh := 250, tTick := some 4 }, rfl, rfl, rfl, rfl⟩, exists_step _ (by decide)⟩

/-- SAMPLE without and with a tick, one state for each of the six operations. -/
theorem witness_SampleTickChoosesTheOperation :
    (sampling 7 [quietInputs]).now.tick = false ∧ tickWord (sampling1 [tickOf 2]) = 0b10000 ∧
      tickWord (inPhase .sample [tickOf 1]) = 0b01000 ∧ tickWord (sampling 253 [tickOf 0]) = 0b00100 ∧
      tickWord (sampling 254 [tickOf 0]) = 0b00110 ∧ tickWord (sampling1 [tickOf 1]) = 0b00000 ∧
      tickWord (sampling81 [tickOf 0]) = 0b00001 :=
  by decide

/-- Both levels. -/
theorem witness_TickOperationsWithinAnInterval :
    (sampling 7 [tickOf 0]).now.lineIn = levelRaw .low ∧ (sampling1 [tickOf 1]).now.lineIn = levelRaw .high :=
  ⟨rfl, rfl⟩

/-- The first and the last entry. -/
theorem witness_EdgesRecordTheInterval :
    ((sampling 7 [tickOf 1]).now.lineIn = levelRaw .high ∧ (sampling 7 []).widx.toNat < (sampling 7 []).cfg.maxObs) ∧
      (sampling81 [tickOf 0]).now.lineIn = levelRaw .low ∧ (sampling81 []).widx.toNat < (sampling81 []).cfg.maxObs :=
  by decide

/-- `widx` at the cap. -/
theorem witness_NoEntryIsWrittenAboveTheCap :
    ∃ s : State, s.now.lineIn = levelRaw .high ∧ s.cfg.maxObs ≤ s.widx.toNat :=
  ⟨{ sampling 3 [tickOf 1] with widx := 82 }, rfl, by decide⟩

/-- A run of two more low ticks and the edge; and the longest run, at the ceiling less one. -/
theorem witness_RunIsRecordedWithItsLength :
    (∃ s : State, Inv s ∧ s.phase = .sample ∧ s.heldValid = true ∧ s.held = .low ∧ noResetFor 3 s ∧
        (∀ k, k < 3 → (s.inputsAt k).tick = true) ∧ (∀ k, k < 2 → (s.inputsAt k).lineIn = levelRaw .low) ∧
        (s.inputsAt 2).lineIn = levelRaw .high ∧ s.cnt.toNat + 2 < s.cfg.ceil ∧ s.widx.toNat + 1 < s.cfg.maxObs) ∧
      ∃ s : State, Inv s ∧ s.cnt.toNat + 0 < s.cfg.ceil ∧ s.cnt = 254 ∧ noResetFor 1 s ∧ (s.inputsAt 0).tick = true ∧
        (s.inputsAt 0).lineIn = levelRaw .high :=
  ⟨⟨sampling 7 [tickOf 0, tickOf 0, tickOf 1],
      ⟨by decide, by decide, by decide, by decide, by decide, by decide, by decide, by decide⟩, rfl, rfl, rfl,
      by unfold noResetFor; decide, by decide, by decide, rfl, by decide, by decide⟩,
    ⟨sampling 254 [tickOf 1],
      ⟨by decide, by decide, by decide, by decide, by decide, by decide, by decide, by decide⟩, by decide, rfl,
      by unfold noResetFor; decide, rfl, rfl⟩⟩

/-- A configuration with one entry and a ceiling of 2, and the two ticks that are enough. -/
theorem witness_SamplingAlwaysEnds :
    ∃ s : State, Inv s ∧ s.phase = .sample ∧ noResetFor 2 s ∧
      s.cfg.maxObs * s.cfg.ceil ≤ (List.range 2).countP (fun k => (s.inputsAt k).tick) :=
  ⟨{ inPhase .sample [tickOf 0, tickOf 0] with cfg := { Config.default with maxObs := 1, ceil := 2 } },
    ⟨by decide, by decide, by decide, by decide, by decide, by decide, by decide, by decide⟩, rfl,
    by unfold noResetFor; decide, by decide⟩

/-- A tick in SAMPLE, with `held` the complement. -/
theorem witness_ComplementaryTracesRecordTheSame :
    ∃ (s : State) (e : Inputs) (es : List Inputs), s.phase = .sample ∧ s.pending = e :: es ∧ e.rst = false ∧
      (s.heldValid = true → Level.high = flipLevel s.held) ∧ ∃ t, step s = .next t ∧ (t.obsLen == 2) = true :=
  ⟨sampling1 [tickOf 1], tickOf 1, [], rfl, rfl, rfl, fun _ => rfl, exists_step _ (by decide)⟩

/-- Another phase, no tick, RESET. -/
theorem witness_LineIsReadOnlyAtATickInSample :
    (holdingLow [tickOf 1]).phase ≠ .sample ∧ (sampling 7 [quietInputs]).now.tick = false ∧
      (sampling 7 [{ tickOf 1 with rst := true }]).now.rst = true :=
  by decide

/-- The last entry, the first index above it, the last index that exists, the first that does not. -/
theorem witness_ReadIsDefinedBelowObsLenOnly :
    (Inv (decoding 3 12 12 [quietInputs]) ∧ 3 < (decoding 3 12 12 []).obsLen.toNat) ∧
      ((decoding 3 12 12 []).obsLen.toNat ≤ 4 ∧ 81 < (decoding 3 12 12 []).cfg.maxObs) ∧ (decoding 3 12 12 []).cfg.maxObs ≤ 82 :=
  ⟨⟨witness_inv_decoding_last, by decide⟩, by decide, by decide⟩

/-- A recording step with an earlier entry. -/
theorem witness_EntryIsImmutableOnceRecorded :
    Inv (sampling1 [tickOf 1]) ∧ noCommand (sampling1 [tickOf 1]) ∧ 0 < (sampling1 []).obsLen.toNat ∧
      ∃ t, step (sampling1 [tickOf 1]) = .next t ∧ (t.obsLen == 2) = true :=
  ⟨witness_inv_sampling1, ⟨rfl, nofun⟩, by decide, exists_step _ (by decide)⟩

/-- A tick and a decoder operation with entries. -/
theorem witness_NonStoringOperationsKeepEveryEntry :
    (∃ t, exec .sSame (sampling1 [tickOf 0]) = .next t ∧ (t.obsLen == 1) = true) ∧
      ∃ t, exec (.data 3 12) (decoding 3 12 12 []) = .next t ∧ (t.obsLen == 4) = true :=
  ⟨exists_exec _ (by decide), exists_exec _ (by decide)⟩

/-- One operation of each. -/
theorem witness_SamplerAndDecoderShareOnlyTheBuffer :
    (∃ t, exec .sCap (sampling81 [tickOf 0]) = .next t ∧ t.capHit = true) ∧
      ∃ t, exec (.cal 12) (decoding 2 5 0 []) = .next t ∧ (t.ref == 12) = true :=
  ⟨exists_exec _ (by decide), exists_exec _ (by decide)⟩

/-- The last bit and the first saturated count. -/
theorem witness_DataAppendsOneBit :
    (39 : BitVec 6).toNat < 40 ∧ 40 ≤ (40 : BitVec 6).toNat :=
  by decide

/-- An observation to consume, and none left. -/
theorem witness_DecodeStepIsTheFoldFunction :
    ((decoding 3 12 12 [quietInputs]).phase = .decode ∧ (decoding 3 12 12 [quietInputs]).now.rst = false ∧
        (decoding 3 12 12 []).ridx ≠ (decoding 3 12 12 []).obsLen) ∧
      memRead (decoding 3 12 12 [quietInputs]) 3 = .next 12 ∧ (decoding 4 12 12 []).ridx = (decoding 4 12 12 []).obsLen :=
  ⟨⟨rfl, rfl, by decide⟩, rfl, rfl⟩

/-- Four observations, none consumed. -/
theorem witness_DecodingIsAFoldOverTheSequence :
    ∃ s : State, Inv s ∧ s.phase = .decode ∧ s.ridx = 0 ∧ decoderState s = DecoderState.initial ∧ noResetFor s.obsLen.toNat s ∧
      s.obsLen = 4 :=
  ⟨decoding 0 0 0 (List.replicate 4 quietInputs),
    ⟨by decide, by decide, by decide, by decide, by decide, by decide, by decide, by decide⟩, rfl, rfl, rfl,
    by unfold noResetFor; decide, rfl⟩

/-- T11a, one bit; T12, four bits; the places of the first and the fortieth bit. -/
theorem witness_DecoderClosedForm :
    (decoderFold DecoderState.initial 0 [5, 5, 12, 12]).bitCount = 1 ∧
      (decoderFold DecoderState.initial 0 [5, 20, 10, 10, 20, 19, 30, 30, 8, 9]).payload.humidityHigh = 0x0B ∧ bitsInByte 1 0 - 1 - 0 % 8 = 0 ∧
      bitsInByte 40 4 - 1 - 39 % 8 = 0 :=
  by decide

/-- R88's default tick counts, and the tie. -/
theorem witness_FrameIsRecoveredExactly :
    (6 : Byte) < 12 ∧ (12 : Byte) ≤ 17 ∧ (12 : Byte) ≤ 12 :=
  by decide

/-- T7: every duration tripled; the largest result, 254. -/
theorem witness_OnlyTheOrderOfDurationsMatters :
    (∀ a ∈ ([5, 20, 12, 6] : List Byte), ∀ b ∈ ([5, 20, 12, 6] : List Byte), (a ≤ b ↔ 3 * a ≤ 3 * b)) ∧
      ∀ a ∈ ([5, 20, 12, 6] : List Byte), 12 * a.toNat + 14 ≤ 254 :=
  by decide

/-- Nothing consumed, and everything consumed. -/
theorem witness_DecodeReachesDoneInObsLenPlusThree :
    (∃ s : State, Inv s ∧ s.phase = .decode ∧ s.ridx = 0 ∧ noResetFor (s.obsLen.toNat - s.ridx.toNat + 3) s) ∧
      ∃ s : State, Inv s ∧ s.phase = .decode ∧ s.ridx = s.obsLen ∧ noResetFor (s.obsLen.toNat - s.ridx.toNat + 3) s :=
  ⟨⟨decoding 0 0 0 (List.replicate 7 quietInputs),
      ⟨by decide, by decide, by decide, by decide, by decide, by decide, by decide, by decide⟩, rfl, rfl,
      by unfold noResetFor; decide⟩,
    ⟨{ inPhase .decode (List.replicate 3 quietInputs) with timeout := true },
      ⟨by decide, by decide, by decide, by decide, by decide, by decide, by decide, by decide⟩, rfl, rfl,
      by unfold noResetFor; decide⟩⟩

/-- VALIDATE on two fifth bytes. -/
theorem witness_ChecksumIsTheTruncatedSum :
    (∃ t, exec .validate { inPhase .validate [] with payload := goodPayload } = .next t ∧ (t.csumCalc == 0x59) = true) ∧
      ∃ u, exec .validate { inPhase .validate [] with payload := { goodPayload with checksum := 0 } } = .next u ∧
        (u.csumCalc == 0x59) = true :=
  ⟨exists_exec _ (by decide), exists_exec _ (by decide)⟩

/-- Two states that share the payload and the count and differ in `max_high`. -/
theorem witness_OutcomeReadsOnlyPayloadAndBitCount :
    ∃ s r : State, s.payload = r.payload ∧ s.bitCount = r.bitCount ∧ s.maxHigh ≠ r.maxHigh :=
  ⟨decoding 3 12 12 [], decoding 3 12 13 [], rfl, rfl, by decide⟩

/-- Both signs, at the largest magnitude. -/
theorem witness_ReadingIsExactAndBounded :
    Reading.tempX10 ⟨0, true, 32767⟩ = -32767 ∧ Reading.tempX10 ⟨0, false, 32767⟩ = 32767 :=
  by decide

/-- The three outcomes, and a fatal stop. -/
theorem witness_OutcomeFollowsTheStatusTable :
    (Inv (doneSuccess [started]) ∧ (doneSuccess [started]).done = true) ∧
      (Inv (doneMismatch [started]) ∧ (doneMismatch [started]).done = true) ∧
      (Inv (doneEmpty [started]) ∧ (doneEmpty [started]).done = true) ∧
      Inv (stopped [resetting]) ∧ (stopped [resetting]).fatal = true :=
  ⟨⟨witness_inv_done_success, rfl⟩, ⟨witness_inv_done_mismatch, rfl⟩, ⟨witness_inv_done_empty, rfl⟩,
    witness_inv_stopped, rfl⟩

/-- DONE, FATAL and a busy phase. -/
theorem witness_ProgressFlagsFollowThePhase :
    Inv (doneSuccess [started]) ∧ Inv (stopped [resetting]) ∧ Inv (holdingLow [answered]) :=
  ⟨witness_inv_done_success, witness_inv_stopped, witness_inv_holding_low⟩

/-- A step that spends the first of two edges. -/
theorem witness_StepSpendsOneEdge :
    ∃ t, step (sampling 7 [tickOf 0, tickOf 1]) = .next t ∧ (t.pending == [tickOf 1] && t.edge == 1) = true :=
  exists_step _ (by decide)

/-- An observation with `max_high` set. -/
theorem witness_MaxHighIsReadByNoOperation :
    ∃ t, step (decoding 3 12 12 [quietInputs]) = .next t ∧ (t.maxHigh == 12) = true :=
  exists_step _ (by decide)

/-- A run of three edges from reset, in another configuration. -/
theorem witness_RangesHoldInEveryReachableState :
    ∃ (c : Config) (s : State), c.Ok ∧ c.maxObs = 60 ∧
      runEdges 3 { State.reset with cfg := c, pending := [started, quietInputs, quietInputs] } = .next s :=
  ⟨{ Config.default with maxObs := 60 }, _, by decide, rfl, rfl⟩

/-- The last bit of a sequence of 82, and CONVERT. -/
theorem witness_FrameBitsStandInOrderOfAcceptance :
    (82 ≤ (List.replicate 82 (0 : Byte)).length ∧ (List.replicate 82 (0 : Byte))[2 * 39 + 3]? = some 0) ∧
      ∃ t, exec .convert { inPhase .convert [] with payload := goodPayload } = .next t ∧ (t.humX10 == 400) = true :=
  ⟨by decide, exists_exec _ (by decide)⟩

/-- By the cap, by a timeout, by a fatal stop, and before any. -/
theorem witness_ExactlyOneReasonEndsSampling :
    (Inv (doneSuccess [started]) ∧ (doneSuccess []).capHit = true) ∧ (Inv (doneEmpty [started]) ∧ (doneEmpty []).timeout = true) ∧
      Inv (stopped [resetting]) ∧ Inv (sampling 7 [tickOf 0]) :=
  ⟨⟨witness_inv_done_success, rfl⟩, ⟨witness_inv_done_empty, rfl⟩, witness_inv_stopped, witness_inv_sampling⟩

end Sys2Proof.Tests
end

section
/-! The step in its three cases (R170), and what no operation writes: the queue of inputs, the edge counter and the
configuration. -/

namespace Sys2Proof.Machine

/-! ### The step in its three cases (R170) -/

/-- R171: with RESET at the edge the step loads the reset registers, whatever START is. -/
theorem step_of_rst {s : State} (hr : s.now.rst = true) :
    step s = .next (closeEdge (resetRegisters (openEdge s))) := by
  simp [step, fetch, hr, decode_cmdWord, exec, execReset]

/-- R172: with an accepted START and no RESET at the edge the step loads the start registers. -/
theorem step_of_start {s : State} (hr : s.now.rst = false) (hs : s.now.start = true)
    (ha : acceptsStart s.phase = true) : step s = .next (closeEdge (startRegisters (openEdge s))) := by
  simp [step, fetch, hr, hs, decode_cmdWord, condOf, ha, exec, execStart]

/-- R173, R77: with no accepted command at the edge the step is the phase's operation; an ignored START changes nothing
of that. -/
theorem step_of_noCommand {s : State} (h : noCommand s) : step s = closed (phaseOperation (openEdge s)) := by
  obtain ⟨hr, hstart⟩ := h
  cases hs : s.now.start with
  | true => simp [step, fetch, hr, hs, decode_cmdWord, condOf, hstart hs, exec, execStartIgnored]
  | false =>
    have hf : fetch s = fetchPhase (openEdge s) := by simp [fetch, hr, hs]
    rcases fetchPhase_cases (openEdge s) with
      ⟨e, ho⟩ | ⟨r, e, ho⟩ | ⟨r, e, ho⟩ | ⟨f, w, i, e, hd, -, ho⟩
    · simp [step, hf, e, ho]
    · simp [step, hf, e, ho]
    · simp [step, hf, e, ho]
    · rw [condOf_openEdge] at hd
      simp [step, hf, e, hd, ho]

/-- Everything a step that answers can do: RESET, an accepted START, or the phase's operation. -/
theorem step_cases {s t : State} (h : step s = .next t) :
    (s.now.rst = true ∧ t = closeEdge (resetRegisters (openEdge s))) ∨
    (s.now.rst = false ∧ s.now.start = true ∧ acceptsStart s.phase = true ∧
      t = closeEdge (startRegisters (openEdge s))) ∨
    (noCommand s ∧ ∃ u, phaseOperation (openEdge s) = .next u ∧ t = closeEdge u) := by
  cases hr : s.now.rst with
  | true =>
    rw [step_of_rst hr] at h
    injection h with h
    exact .inl ⟨rfl, h.symm⟩
  | false =>
    by_cases hc : s.now.start = true ∧ acceptsStart s.phase = true
    · rw [step_of_start hr hc.1 hc.2] at h
      injection h with h
      exact .inr (.inl ⟨rfl, hc.1, hc.2, h.symm⟩)
    · have hn : noCommand s := ⟨hr, fun hs => Bool.eq_false_iff.2 fun ha => hc ⟨hs, ha⟩⟩
      rw [step_of_noCommand hn] at h
      exact .inr (.inr ⟨hn, closed_eq_next.1 h⟩)

/-! ### What no operation writes (R7, R20) -/

/-- The model's own fields are the same in both states: all that SameRegisters leaves out but the delay ports. -/
structure SameModelFields (s t : State) : Prop where
  pending : t.pending = s.pending
  edge : t.edge = s.edge
  cfg : t.cfg = s.cfg

theorem sampleTick_sameModelFields {s t : State} (h : sampleTick s = .next t) : SameModelFields s t := by
  rcases sampleTick_cases s with ⟨-, -, e⟩ | ⟨l, -, ⟨-, e⟩ | ⟨-, -, -, e⟩ | ⟨-, -, -, e⟩ | ⟨-, -, -, e⟩ |
    ⟨-, -, -, -, e⟩ | ⟨-, -, -, e⟩⟩ <;> cases e.symm.trans h <;> exact ⟨rfl, rfl, rfl⟩

theorem decodeStep_sameModelFields {s t : State} (h : decodeStep s = .next t) : SameModelFields s t := by
  rcases decodeStep_cases s with ⟨-, e⟩ | ⟨-, d, -, e⟩ | ⟨-, r, -, e⟩ | ⟨-, r, -, e⟩ <;>
    cases e.symm.trans h <;> exact ⟨rfl, rfl, rfl⟩

/-- The phase's operation writes none of the model's own fields, whichever phase it is. -/
theorem phaseOperation_sameModelFields {s t : State} (h : phaseOperation s = .next t) : SameModelFields s t := by
  rcases phaseOperation_cases s t h with ⟨rfl, -⟩ | ⟨-, rfl⟩ | ⟨-, rfl⟩ | ⟨-, rfl⟩ | ⟨-, rfl⟩ | ⟨-, -, rfl⟩ |
    ⟨-, -, rfl⟩ | ⟨-, -, rfl⟩ | ⟨-, rfl⟩ | ⟨-, -, htick⟩ | ⟨-, hdecode⟩ | ⟨-, hvalidate⟩ | ⟨-, hconvert⟩
  any_goals exact ⟨rfl, rfl, rfl⟩
  · exact sampleTick_sameModelFields htick
  · exact decodeStep_sameModelFields hdecode
  · cases hvalidate; exact ⟨rfl, rfl, rfl⟩
  · cases hconvert; exact ⟨rfl, rfl, rfl⟩

/-- Settles O14: RESET, START and the phase's operation leave the model's own fields alone, so that only closeEdge moves the
queue and the counter. -/
theorem stepSpendsOneEdge : Obligations.StepSpendsOneEdge := by
  intro s t h
  rcases step_cases h with ⟨-, rfl⟩ | ⟨-, -, -, rfl⟩ | ⟨-, u, hu, rfl⟩
  · exact ⟨rfl, rfl, rfl⟩
  · exact ⟨rfl, rfl, rfl⟩
  · obtain ⟨hpending, hedge, hcfg⟩ := phaseOperation_sameModelFields hu
    exact ⟨hcfg, congrArg (· + 1) hedge, congrArg List.tail hpending⟩

end Sys2Proof.Machine
end

section
/-! The invariant at reset (R45) and kept by every step (R46, R35, R37, R137, R223). Each transition of the phase has one
lemma; the recording of an entry and the consumption of an observation have one each for the clause they turn on. -/

namespace Sys2Proof.Machine

/-! ### The payload's unused bits -/

/-- R46: the payload after `n` accepted bits: nothing above byte `n div 8`, and that byte below `2 ^ (n mod 8)`. -/
def FilledTo (n : Nat) (p : Payload) : Prop :=
  ∀ k ∈ List.range 5, (n / 8 < k → p.bytes[k]? = some 0) ∧ (k = n / 8 → ∀ v ∈ p.bytes[k]?, v.toNat < 2 ^ (n % 8))

theorem filledTo_zero : FilledTo 0 ⟨0, 0, 0, 0, 0⟩ := by
  unfold FilledTo
  decide

/-- R134: shifting into byte `k` changes that byte alone; above byte 4 there is none. -/
theorem bytes_shiftInto (p : Payload) (k : Nat) (b : Bool) :
    (shiftInto p k b).bytes = p.bytes.modify k (shiftIn · b) := by
  match k with
  | 0 | 1 | 2 | 3 | 4 => rfl
  | k + 5 => exact (List.modify_eq_self (Nat.le_add_left 5 k)).symm

/-- R134: one more bit, shifted into byte `n div 8`. -/
theorem filledTo_shiftInto {n : Nat} {p : Payload} (h : FilledTo n p) (b : Bool) :
    FilledTo (n + 1) (shiftInto p (n / 8) b) := by
  intro k hk
  obtain ⟨habove, hat⟩ := h k hk
  rw [bytes_shiftInto]
  by_cases hkn : n / 8 = k
  · refine ⟨fun hlt => absurd hlt (by omega), fun heq v hv => ?_⟩
    rw [hkn, List.getElem?_modify_eq, Option.map_eq_map, Option.mem_map] at hv
    obtain ⟨w, hw, rfl⟩ := hv
    have hlt : w.toNat < 2 ^ (n % 8) := hat hkn.symm w hw
    have hmod : (n + 1) % 8 = n % 8 + 1 := by omega
    have hbit : b.toNat ≤ 1 := b.toNat_le
    rw [shiftIn_toNat, hmod, pow_succ]
    omega
  · rw [List.getElem?_modify_ne _ _ hkn]
    refine ⟨fun hlt => habove (by omega), fun heq v hv => ?_⟩
    rw [habove (by omega), Option.mem_some_iff] at hv
    subst hv
    exact Nat.two_pow_pos _

/-! ### The edge and RESET -/

/-- R45: the reset registers meet the invariant in every admitted configuration, whatever inputs are listed. -/
theorem inv_reset {c : Config} (hc : c.Ok) (es : List Inputs) (n : Nat) :
    Inv { State.reset with pending := es, edge := n, cfg := c } where
  cfgOk := hc
  buffer := by simp [BufferInv, State.reset, Memory.wf]
  sampler := by
    obtain ⟨-, -, hceil, -⟩ := hc
    have hpos : 0 < c.ceil := by omega
    simpa [SamplerInv, State.reset] using hpos
  decoder := ⟨Nat.le_refl _, fun _ => rfl, fun _ _ => rfl, by simp [State.reset], filledTo_zero⟩
  line := by simp [LineInv, State.reset]
  flags := by simp [FlagInv, State.reset]
  results := by simp [ResultInv, State.reset]
  delay := by simp [DelayInv, State.reset]

/-- R171. -/
theorem inv_resetRegisters {s : State} (h : Inv s) : Inv (resetRegisters (openEdge s)) :=
  inv_reset h.cfgOk s.pending s.edge

/-- The ports are cleared before the edge's operation (log entry 4). -/
theorem inv_openEdge {s : State} (h : Inv s) : Inv (openEdge s) :=
  ⟨h.cfgOk, h.buffer, h.sampler, h.decoder, h.line, h.flags, h.results, by simp [DelayInv]⟩

theorem inv_closeEdge {s : State} (h : Inv s) : Inv (closeEdge s) :=
  ⟨h.cfgOk, h.buffer, h.sampler, h.decoder, h.line, h.flags, h.results, h.delay⟩

/-! ### Wake-up and START -/

/-- A phase before the first tick is none of the others. -/
theorem beforeSample_excludes {p : Phase} (h : beforeSample p = true) :
    p ≠ .sample ∧ afterSample p = false ∧ p ≠ .convert ∧ p ≠ .done ∧ p ≠ .fatal := by
  cases p <;> simp at h ⊢

/-- A step from one phase before SAMPLE to another keeps the invariant where it sets line and delay ports as the new phase
asks: no other clause tells these phases apart. -/
theorem inv_wakeUp {s : State} (h : Inv s) {p : Phase} {oe : Direction} {out : Level} {d : Option DelayRequest}
    (hs : beforeSample s.phase = true) (hp : beforeSample p = true)
    (hline : LineInv { s with phase := p, lineOe := oe, lineOut := out })
    (hdly : DelayInv { s with phase := p, dly := d }) :
    Inv { s with phase := p, lineOe := oe, lineOut := out, dly := d } := by
  obtain ⟨-, haS, hcS, hdS, hfS⟩ := beforeSample_excludes hs
  obtain ⟨hsP, haP, hcP, hdP, hfP⟩ := beforeSample_excludes hp
  obtain ⟨hcnt, hobs, -, -⟩ := h.sampler
  refine ⟨h.cfgOk, h.buffer, ⟨hcnt, fun _ => hobs hs, fun e => absurd e hsP, fun e => absurd e hsP⟩, ?_, hline, ?_, ?_,
    hdly⟩
  · simpa [DecoderInv, haS, haP] using h.decoder
  · simpa only [FlagInv, haS, haP, hdS, hdP, hfS, hfP] using h.flags
  · simpa only [ResultInv, hcS, hcP, hdS, hdP, or_self, if_false] using h.results

/-- R172: where START is accepted the line is released, and START leaves it so. -/
theorem inv_startRegisters {s : State} (h : Inv s) (ha : acceptsStart s.phase = true) :
    Inv (startRegisters (openEdge s)) := by
  have hline := h.line
  refine inv_wakeUp (inv_resetRegisters h) (p := .wDirOut) rfl rfl ?_ (by simp [DelayInv])
  cases hp : s.phase <;> simp [hp, acceptsStart] at ha <;> simpa [LineInv, hp] using hline

/-- R107. -/
theorem inv_listen {s : State} (h : Inv s) (hp : s.phase = .wListen) (hdly : s.dly = none) :
    Inv { s with lineOe := .input, widx := 0, cnt := 0, heldValid := false, phase := .sample } := by
  obtain ⟨hmax, -, hceil, -⟩ := h.cfgOk
  obtain ⟨hwf, haddr, hdur, -, -⟩ := h.buffer
  obtain ⟨-, hobs, -, -⟩ := h.sampler
  refine ⟨h.cfgOk, ⟨hwf, haddr, hdur, hobs (by rw [hp]), Nat.zero_le _⟩, ?_, ?_, ?_, ?_, ?_, by simp [DelayInv, hdly]⟩
  · have hpos : 0 < s.cfg.ceil ∧ 0 < s.cfg.maxObs := by omega
    simpa [SamplerInv] using hpos
  · simpa [DecoderInv, hp] using h.decoder
  · have hline := h.line
    simp [LineInv, hp] at hline ⊢
    exact hline.2
  · simpa [FlagInv, hp] using h.flags
  · simpa [ResultInv, hp] using h.results

/-! ### Ticks -/

/-- R51, R112: the recorded entry is the next address, and a count below `CEIL`. -/
theorem bufferInv_recorded {s : State} (l : Level) (h : BufferInv s) (hmax : s.cfg.maxObs ≤ 127)
    (hcnt : s.cnt.toNat < s.cfg.ceil) (hw : s.widx.toNat < s.cfg.maxObs) : BufferInv (recorded l s) := by
  obtain ⟨hwf, haddr, hdur, hlen, -⟩ := h
  rw [hlen] at haddr
  have hsucc : (s.widx + 1).toNat = s.widx.toNat + 1 := toNat_succ_index _ (by omega)
  have happend : Memory.write s.obs s.widx.toNat s.cnt = s.obs ++ [(s.widx.toNat, s.cnt)] := by
    refine Memory.write_append _ _ _ fun c hc => ?_
    rw [← List.mem_range, ← haddr]
    exact List.mem_map_of_mem hc
  refine ⟨Memory.write_wf _ _ _ hwf, ?_, ?_, rfl, hsucc.trans_le hw⟩
  · simp only [happend, hsucc, List.range_succ, List.map_append, haddr, List.map_cons, List.map_nil]
  · simp only [happend, List.mem_append, List.mem_singleton]
    rintro c (hc | rfl)
    · exact hdur c hc
    · exact hcnt

/-- R109, R110, R112: a tick that stays in SAMPLE keeps the invariant where it keeps the buffer's clause and leaves both
counters below their ends. -/
theorem inv_sampling {s : State} (h : Inv s) (hp : s.phase = .sample) (hdly : s.dly = none) {l : Level} {c : Byte}
    {w n : Index} {m : List Host.Cell} (hb : BufferInv { s with obs := m, widx := w, obsLen := n })
    (hc : c.toNat < s.cfg.ceil) (hw : w.toNat < s.cfg.maxObs) :
    Inv { s with held := l, heldValid := true, cnt := c, obs := m, widx := w, obsLen := n } := by
  obtain ⟨-, hridx, -, hbits, hpayload⟩ := h.decoder
  obtain ⟨hdone, hfatal, -, hreason, -, -, hvalue⟩ := h.flags
  have hr0 : s.ridx = 0 := hridx (by rw [hp])
  obtain ⟨htm, hcp⟩ := hreason (by rw [hp])
  refine ⟨h.cfgOk, hb, ?_, ⟨?_, fun _ => hr0, ?_, hbits, hpayload⟩, h.line, ⟨hdone, hfatal, ?_, hreason, ?_, ?_, hvalue⟩,
    h.results, by simp [DelayInv, hdly]⟩
  · simp [SamplerInv, hp, hc, hw]
  · simp [hr0]
  · simp [hp]
  · simp [hp]
  · simp [hcp]
  · simp [htm]

/-- R111, R113: a tick that leaves SAMPLE for DECODE keeps the invariant where it keeps the buffer's clause and sets the one
flag of the two that tells how full the buffer is. -/
theorem inv_endSampling {s : State} (h : Inv s) (hp : s.phase = .sample) (hdly : s.dly = none) {l : Level} {w n : Index}
    {m : List Host.Cell} {tm cp : Bool} (hb : BufferInv { s with obs := m, widx := w, obsLen := n }) (hreason : tm = !cp)
    (hcp : cp = true → n.toNat = s.cfg.maxObs) (htm : tm = true → n.toNat < s.cfg.maxObs) :
    Inv { s with held := l, cnt := 0, obs := m, widx := w, obsLen := n, timeout := tm, capHit := cp,
                 phase := .decode } := by
  obtain ⟨-, -, hceil, -⟩ := h.cfgOk
  obtain ⟨-, hridx, -, hbits, hpayload⟩ := h.decoder
  obtain ⟨hdone, hfatal, -, -, -, -, hvalue⟩ := h.flags
  have hr0 : s.ridx = 0 := hridx (by rw [hp])
  refine ⟨h.cfgOk, hb, ?_, ⟨?_, ?_, ?_, hbits, hpayload⟩, ?_, ⟨?_, ?_, fun _ => hreason, ?_, hcp, htm, hvalue⟩, ?_,
    by simp [DelayInv, hdly]⟩
  · have hpos : 0 < s.cfg.ceil := by omega
    simpa [SamplerInv] using hpos
  · simp [hr0]
  · simp
  · simp
  · simpa [LineInv, hp] using h.line
  · simpa [hp] using hdone
  · simpa [hp] using hfatal
  · simp
  · simpa [ResultInv, hp] using h.results

/-- R196: the fatal stop keeps the invariant: the value it records is no level. -/
theorem inv_raiseFatal {s : State} (h : Inv s) (hp : s.phase = .sample) (hdly : s.dly = none) {v : Nat} (hv : 2 ≤ v) :
    Inv (raiseFatal v s) := by
  obtain ⟨hcnt, -, -, -⟩ := h.sampler
  refine ⟨h.cfgOk, h.buffer, ?_, ?_, ?_, ?_, ?_, by simp [DelayInv, hdly]⟩
  · simpa [SamplerInv] using hcnt
  · simpa [DecoderInv, hp] using h.decoder
  · have hline := h.line
    simp [LineInv, hp] at hline ⊢
    exact hline.2
  · have hflags := h.flags
    simp [FlagInv, hp] at hflags ⊢
    simp [hflags, hv]
  · simpa [ResultInv, hp] using h.results

/-- R114: every tick keeps the invariant. -/
theorem inv_tick {s t : State} (h : Inv s) (hp : s.phase = .sample) (hdly : s.dly = none)
    (ht : sampleTick s = .next t) : Inv t := by
  obtain ⟨-, hmax, hceil, hceilMax, -⟩ := h.cfgOk
  obtain ⟨hcnt, -, hcap, -⟩ := h.sampler
  obtain ⟨-, -, -, hlen, -⟩ := h.buffer
  obtain ⟨-, -, -, hreason, -⟩ := h.flags
  obtain ⟨htm, hcp⟩ := hreason (by rw [hp])
  have hw := hcap hp
  have hb (l : Level) : BufferInv (recorded l s) := bufferInv_recorded l h.buffer hmax hcnt hw
  have hsucc : (s.widx + 1).toNat = s.widx.toNat + 1 := toNat_succ_index _ (by omega)
  rcases sampleTick_cases s with ⟨h0, h1, e⟩ | ⟨l, -, ⟨-, e⟩ | ⟨hv, -, -, e⟩ | ⟨hv, -, hc, e⟩ | ⟨-, -, hx, e⟩ |
    ⟨hv, -, hx, -, e⟩ | ⟨-, -, -, e⟩⟩ <;> cases e.symm.trans ht
  · exact inv_raiseFatal h hp hdly (by omega)
  · exact inv_sampling h hp hdly h.buffer hceil hw
  · exact inv_endSampling h hp hdly h.buffer (by rw [hcp]; rfl) (by simp [hcp]) fun _ => hlen ▸ hw
  · have hs := inv_sampling h hp hdly (l := s.held) (c := s.cnt + 1) h.buffer
      (by rw [toNat_succ_byte _ (by omega)]; omega) hw
    rwa [← hv] at hs
  · exact inv_endSampling h hp hdly (hb l) (by rw [htm]; rfl) (fun _ => hsucc.trans hx) (by simp [htm])
  · have hs := inv_sampling h hp hdly (l := l) (c := 0) (hb l) (show 0 < s.cfg.ceil by omega) (by omega)
    rwa [← hv] at hs

/-! ### The decoder -/

/-- What R46 and R137 say of the decoder's registers before the observation of index `i`. -/
def DecodedTo (i : Nat) (d : DecoderState) : Prop :=
  d.bitCount.toNat = min Config.nBits ((i - 2) / 2) ∧ FilledTo d.bitCount.toNat d.payload

/-- R137: one observation more; the count moves at the odd indices from 3 on, until it is 40. -/
theorem decodedTo_decoderFunction {i : Nat} {d : DecoderState} (h : DecodedTo i d) (x : Byte) :
    DecodedTo (i + 1) (decoderFunction d i x) := by
  obtain ⟨hbits, hfilled⟩ := h
  have hN : Config.nBits = 40 := rfl
  unfold decoderFunction
  split
  · exact ⟨by simp only; omega, hfilled⟩
  split
  · exact ⟨by omega, hfilled⟩
  split
  · split
    · have hsucc : (d.bitCount + 1).toNat = d.bitCount.toNat + 1 := toNat_succ_bitCount _ (by omega)
      refine ⟨by simp only [hsucc]; omega, ?_⟩
      simp only [hsucc]
      exact filledTo_shiftInto hfilled _
    · exact ⟨by omega, hfilled⟩
  · exact ⟨by simp only; omega, hfilled⟩

/-- R130: END, or one observation consumed. -/
theorem inv_decode {s t : State} (h : Inv s) (hp : s.phase = .decode) (hdly : s.dly = none)
    (ht : decodeStep s = .next t) : Inv t := by
  have hs := h.sampler
  have hl := h.line
  have hf := h.flags
  have hr := h.results
  obtain ⟨hle, -, -, hbits, hpayload⟩ := h.decoder
  rcases decodeStep_cases s with ⟨hend, e⟩ | ⟨hne, d, -, e⟩ | ⟨-, r, -, e⟩ | ⟨-, r, -, e⟩ <;>
    cases e.symm.trans ht
  · refine ⟨h.cfgOk, h.buffer, ?_, ⟨hle, by simp, fun _ _ => hend, hbits, hpayload⟩, ?_, ?_, ?_, by simp [DelayInv, hdly]⟩
    · simpa [SamplerInv, hp] using hs
    · simpa [LineInv, hp] using hl
    · simpa [FlagInv, hp] using hf
    · simpa [ResultInv, hp] using hr
  · have hlt : s.ridx.toNat < s.obsLen.toNat := lt_of_le_of_ne hle fun e => hne (BitVec.eq_of_toNat_eq e)
    have hsucc : (s.ridx + 1).toNat = s.ridx.toNat + 1 := toNat_succ_index _ (by omega)
    obtain ⟨hbits', hfilled'⟩ := decodedTo_decoderFunction (d := decoderState s) ⟨hbits, hpayload⟩ d
    refine ⟨h.cfgOk, h.buffer, hs, ⟨?_, ?_, fun _ hd => absurd hp hd, ?_, hfilled'⟩, hl, hf, ?_, by simp [DelayInv, hdly]⟩
    · exact hsucc.trans_le hlt
    · simp [hp]
    · show _ = min Config.nBits (((s.ridx + 1).toNat - 2) / 2)
      rw [hsucc]
      exact hbits'
    · simpa [ResultInv, hp] using hr

/-! ### VALIDATE and CONVERT -/

/-- R150: the result fields take what the validator computes. -/
theorem inv_validate {s t : State} (h : Inv s) (hp : s.phase = .validate) (hdly : s.dly = none)
    (ht : execValidate s = .next t) : Inv t := by
  cases ht
  have hr := h.results
  simp [ResultInv, hp] at hr
  refine ⟨h.cfgOk, h.buffer, ?_, ?_, ?_, ?_, ?_, by simp [DelayInv, hdly]⟩
  · simpa [SamplerInv, hp] using h.sampler
  · simpa [DecoderInv, hp] using h.decoder
  · simpa [LineInv, hp] using h.line
  · simpa [FlagInv, hp] using h.flags
  · simp [ResultInv, hr]

/-- R160: the reading, and `done`. -/
theorem inv_convert {s t : State} (h : Inv s) (hp : s.phase = .convert) (hdly : s.dly = none)
    (ht : execConvert s = .next t) : Inv t := by
  cases ht
  have hf := h.flags
  have hr := h.results
  simp [FlagInv, ResultInv, hp] at hf hr
  obtain ⟨-, hf⟩ := hf
  refine ⟨h.cfgOk, h.buffer, ?_, ?_, ?_, ?_, ?_, by simp [DelayInv, hdly]⟩
  · simpa [SamplerInv, hp] using h.sampler
  · simpa [DecoderInv, hp] using h.decoder
  · simpa [LineInv, hp] using h.line
  · simpa [FlagInv] using hf
  · simp [ResultInv, hr]

/-! ### The step -/

/-- The phase's operation keeps the invariant where the delay ports were cleared before it. -/
theorem inv_phaseOperation {s t : State} (h : Inv s) (hdly : s.dly = none) (ht : phaseOperation s = .next t) : Inv t := by
  have hline := h.line
  rcases phaseOperation_cases s t ht with ⟨rfl, -⟩ | ⟨hp, rfl⟩ | ⟨hp, rfl⟩ | ⟨hp, rfl⟩ | ⟨hp, rfl⟩ | ⟨hp, -, rfl⟩ |
    ⟨hp, -, rfl⟩ | ⟨hp, -, rfl⟩ | ⟨hp, rfl⟩ | ⟨hp, -, htick⟩ | ⟨hp, hdecode⟩ | ⟨hp, hvalidate⟩ | ⟨hp, hconvert⟩
  any_goals
    refine inv_wakeUp h (by rw [hp]) rfl ?_ (by simp [DelayInv, hdly])
    simp [LineInv, hp] at hline
    simp [LineInv, hline]
  · exact h
  · exact inv_listen h hp hdly
  · exact inv_tick h hp hdly htick
  · exact inv_decode h hp hdly hdecode
  · exact inv_validate h hp hdly hvalidate
  · exact inv_convert h hp hdly hconvert

/-- Settles O11: RESET loads a state of the invariant, an accepted START goes on from such a state, and the phase's operation keeps
it. -/
theorem stepKeepsTheInvariant : Obligations.StepKeepsTheInvariant := by
  intro s t h hstep
  rcases step_cases hstep with ⟨-, rfl⟩ | ⟨-, -, ha, rfl⟩ | ⟨-, u, hu, rfl⟩
  · exact inv_closeEdge (inv_resetRegisters h)
  · exact inv_closeEdge (inv_startRegisters h ha)
  · exact inv_closeEdge (inv_phaseOperation (inv_openEdge h) rfl hu)

/-- Settles O10: R45 with the default configuration. -/
theorem resetStateMeetsTheInvariant : Obligations.ResetStateMeetsTheInvariant :=
  inv_reset (by decide) [] 0

/-! ### Runs -/

/-- What every step keeps, every run keeps. -/
theorem runEdges_keeps {P : State → Prop} (hstep : ∀ s t, P s → step s = .next t → P t) {n : Nat} {s t : State} (h : P s)
    (hrun : runEdges n s = .next t) : P t := by
  induction n generalizing s with
  | zero => cases hrun; exact h
  | succ n ih =>
    rw [runEdges_unfold] at hrun
    cases hs : step s <;> simp only [hs] at hrun
    case next u => exact ih (hstep s u h hs) hrun
    all_goals cases hrun

/-- R46: a run from reset in an admitted configuration keeps the invariant and the configuration. -/
theorem inv_of_reachable {c : Config} {es : List Inputs} {n : Nat} {s : State} (hc : c.Ok)
    (hrun : runEdges n { State.reset with cfg := c, pending := es } = .next s) : Inv s ∧ s.cfg = c := by
  refine runEdges_keeps (P := fun s => Inv s ∧ s.cfg = c) ?_ ⟨inv_reset hc es 0, rfl⟩ hrun
  intro s t hs ht
  exact ⟨stepKeepsTheInvariant s t hs.1 ht, (stepSpendsOneEdge s t ht).1.trans hs.2⟩

/-- R52, R46: every value a read answers is a recorded duration, below `CEIL`. -/
theorem memRead_lt_ceil {s : State} (h : Inv s) {i : Nat} {v : Byte} (hread : memRead s i = .next v) :
    v.toNat < s.cfg.ceil := by
  obtain ⟨hwf, -, hdur, -⟩ := h.buffer
  rcases memRead_cases s i with ⟨-, e⟩ | ⟨-, -, e⟩ | ⟨-, -, w, hw, e⟩ <;> cases e.symm.trans hread
  exact hdur (i, v) ((Memory.read_eq_some_iff s.obs hwf i v).1 hw)

/-- A payload byte that exists stands below index 5. -/
theorem mem_range_of_bytes {p : Payload} {k : Nat} {v : Byte} (h : p.bytes[k]? = some v) : k ∈ List.range 5 :=
  List.mem_range.2 (List.getElem?_eq_some_iff.1 h).1

/-- Settles O12: each clause of R46 is read off the invariant of the state reached. -/
theorem rangesHoldInEveryReachableState : Obligations.RangesHoldInEveryReachableState := by
  intro c es n s hc hrun
  obtain ⟨h, rfl⟩ := inv_of_reachable hc hrun
  obtain ⟨-, -, -, hlen, hmax⟩ := h.buffer
  obtain ⟨hcnt, -⟩ := h.sampler
  obtain ⟨hridx, -, -, hbits, hpayload⟩ := h.decoder
  have hN : Config.nBits = 40 := rfl
  refine ⟨fun _ => ⟨hlen, hmax⟩, hridx, by omega, by omega, ?_, ?_, ?_, by omega, ?_⟩
  · intro i v hread
    exact Nat.le_sub_one_of_lt (memRead_lt_ceil h hread)
  · intro k v hk hv
    obtain ⟨habove, -⟩ := hpayload k (mem_range_of_bytes hv)
    exact Option.some_injective _ (hv.symm.trans (habove hk))
  · intro _ v hv
    obtain ⟨-, hat⟩ := hpayload _ (mem_range_of_bytes hv)
    exact hat rfl v hv
  · intro hcap hfull
    refine BitVec.eq_of_toNat_eq ?_
    have : s.bitCount.toNat = 40 := by rw [hfull]; rfl
    show s.obsLen.toNat = 82
    rw [← hlen] at hmax
    omega

/-! ### What the flags say -/

/-- Settles O57: the flags are the invariant's, and an outcome is shown exactly while `done` is set. -/
theorem progressFlagsFollowThePhase : Obligations.ProgressFlagsFollowThePhase := by
  intro s h
  obtain ⟨hdone, hfatal, -⟩ := h.flags
  refine ⟨hdone, hfatal, ?_, ?_⟩
  · cases hp : s.phase <;> simp [State.busy, hp]
  · cases hd : s.done <;> simp [HostView.outcome, hostView, hd]

/-- Settles O58: `fatal` excludes the phases after SAMPLE, where `timeout` is the negation of `cap_hit`, and elsewhere these
two are 0. -/
theorem exactlyOneReasonEndsSampling : Obligations.ExactlyOneReasonEndsSampling := by
  intro s h
  obtain ⟨-, hfatal, hafter, hbefore, hcap, -⟩ := h.flags
  refine ⟨fun hended => ⟨?_, hcap⟩, fun hnf hna => ?_⟩
  · rcases hended with hp | ha
    · obtain ⟨htm, hcp⟩ := hbefore (by rw [hp])
      rw [htm, hcp, hfatal.2 hp]
      rfl
    · have hf : s.fatal = false := Bool.eq_false_iff.2 fun hf => by simp [hfatal.1 hf] at ha
      rw [hafter ha, hf]
      cases s.capHit <;> rfl
  · obtain ⟨htm, hcp⟩ := hbefore hna
    rw [htm, hcp, Bool.eq_false_iff.2 fun hf => hnf (hfatal.1 hf)]
    rfl

end Sys2Proof.Machine
end

section
/-! What the operations leave alone: the frames of the sampler and of the decoder (R20, R29), the entries (R51, R62), and the
two fields that no recorded value depends on, `held`'s polarity (R43) and `max_high` (R22). -/

namespace Sys2Proof.Machine

/-! ### The two frames (R20, R29) -/

/-- Only what the sampler writes differs. -/
def SamplerFrame (s t : State) : Prop :=
  t = { s with phase := t.phase, widx := t.widx, cnt := t.cnt, held := t.held, heldValid := t.heldValid,
               lineOe := t.lineOe, lineOut := t.lineOut, obs := t.obs, obsLen := t.obsLen,
               timeout := t.timeout, capHit := t.capHit, fatal := t.fatal, fatalValue := t.fatalValue,
               dly := t.dly }

/-- Only what the decoder, VALIDATE and CONVERT write differs. -/
def DecoderFrame (s t : State) : Prop :=
  t = { s with phase := t.phase, ridx := t.ridx, ref := t.ref, maxHigh := t.maxHigh, bitCount := t.bitCount,
               payload := t.payload, complete := t.complete, csumOk := t.csumOk, success := t.success,
               done := t.done, status := t.status, csumCalc := t.csumCalc, humX10 := t.humX10,
               tempNeg := t.tempNeg, tempMagX10 := t.tempMagX10 }

/-- A hold changes `phase` or nothing (R102, R104, R106). -/
theorem holdThen_eq_next {p : Phase} {s t : State} (h : holdThen p s = .next t) : t = setPhase p s ∨ t = s := by
  unfold holdThen at h
  split at h <;> cases h <;> simp

/-- What holds of the fatal stop and of what a tick does with its level holds of the tick (R108). -/
theorem withLevel_elim {P : State → Prop} {s t : State} {f : Level → Result} (hfatal : P (raiseFatal (lineRead s) s))
    (hlevel : ∀ l, f l = .next t → P t) (h : withLevel s f = .next t) : P t := by
  rcases withLevel_cases s f with ⟨-, -, e⟩ | ⟨l, -, e⟩
  · cases e.symm.trans h
    exact hfatal
  · exact hlevel l (e.symm.trans h)

theorem recordObservation_samplerFrame {l : Level} {s t : State} (h : recordObservation l s = .next t) :
    SamplerFrame s t := by
  rcases recordObservation_cases l s with ⟨-, e⟩ | ⟨-, e⟩ <;> cases e.symm.trans h
  rfl

/-- The fourteen operations of the sampler: the wake-up steps and the ticks. -/
abbrev samplerOps : List Instr :=
  [.w1DirOut, .w2DriveHigh, .w3HoldHigh, .w4DriveLow, .w5HoldLow, .w6DriveRel, .w7HoldRel, .w8Listen, .sFatal, .sFirst,
    .sSame, .sTimeout, .sEdge, .sCap]

theorem exec_samplerFrame {i : Instr} {s t : State} (h : exec i s = .next t) (hi : i ∈ samplerOps) : SamplerFrame s t := by
  cases i
  case w1DirOut | w2DriveHigh | w4DriveLow | w6DriveRel | w8Listen | sFatal => cases h; rfl
  case w3HoldHigh | w5HoldLow | w7HoldRel => rcases holdThen_eq_next h with rfl | rfl <;> rfl
  case sFirst | sSame | sTimeout => exact withLevel_elim rfl (fun _ e => by cases e; rfl) h
  case sEdge => exact withLevel_elim rfl (fun _ e => recordObservation_samplerFrame e) h
  case sCap =>
    exact withLevel_elim (P := SamplerFrame s) rfl
      (fun _ e => recordObservation_samplerFrame (s := { s with capHit := true, phase := .decode }) e) h
  all_goals simp at hi

/-- The operations of the decoder: the observations, END, VALIDATE and CONVERT. -/
abbrev isDecoderOp (i : Instr) : Prop := (encode i).1 = .obs ∨ i ∈ [Instr.endSeq, .validate, .convert]

theorem exec_decoderFrame {i : Instr} {s t : State} (h : exec i s = .next t) (hi : isDecoderOp i) : DecoderFrame s t := by
  cases i
  case cal | skip | dataSaturated | ref | endSeq | validate | convert => cases h; rfl
  case data => cases h; cases ho : frameOpen s <;> rfl
  all_goals simp [isDecoderOp, encode] at hi

/-- Settles O40: one frame for each of the two groups of operations. -/
theorem samplerAndDecoderShareOnlyTheBuffer : Obligations.SamplerAndDecoderShareOnlyTheBuffer :=
  fun _ _ _ h => ⟨exec_samplerFrame h, exec_decoderFrame h⟩

/-! ### The entries (R51, R62) -/

/-- The buffer and its length are the same in both states. -/
def SameEntries (s t : State) : Prop := t.obs = s.obs ∧ t.obsLen = s.obsLen

theorem sameEntries_of_decoderFrame {s t : State} (h : DecoderFrame s t) : SameEntries s t := by
  unfold DecoderFrame at h
  rw [h]
  exact ⟨rfl, rfl⟩

/-- R57: of the operations that are no command, S_EDGE and S_CAP alone store. -/
theorem exec_sameEntries {i : Instr} {s t : State} (hi : i ∉ [Instr.reset, .start, .startIgnored, .sEdge, .sCap])
    (h : exec i s = .next t) : SameEntries s t := by
  cases i
  case cal | skip | data | dataSaturated | ref => exact sameEntries_of_decoderFrame (exec_decoderFrame h (.inl rfl))
  case endSeq | validate | convert => exact sameEntries_of_decoderFrame (exec_decoderFrame h (.inr (by simp)))
  case nopIdle | nopDone | nopFatal => cases h; exact ⟨rfl, rfl⟩
  case w1DirOut | w2DriveHigh | w4DriveLow | w6DriveRel | w8Listen | sFatal => cases h; exact ⟨rfl, rfl⟩
  case w3HoldHigh | w5HoldLow | w7HoldRel => rcases holdThen_eq_next h with rfl | rfl <;> exact ⟨rfl, rfl⟩
  case sFirst | sSame | sTimeout => exact withLevel_elim ⟨rfl, rfl⟩ (fun _ e => by cases e; exact ⟨rfl, rfl⟩) h
  all_goals simp at hi

/-- Settles O39: the same buffer reads the same at every address. -/
theorem nonStoringOperationsKeepEveryEntry : Obligations.NonStoringOperationsKeepEveryEntry := by
  intro i s t hreset hstart hignored hedge hcap h
  obtain ⟨hobs, hlen⟩ := exec_sameEntries (by simp [hreset, hstart, hignored, hedge, hcap]) h
  exact ⟨fun a => by rw [hobs], hlen⟩

/-! ### What a tick answers, from its conditions -/

theorem sampleTick_of_invalid {s : State} (h0 : lineRead s ≠ 0) (h1 : lineRead s ≠ 1) :
    sampleTick s = .next (raiseFatal (lineRead s) s) := by
  rw [sampleTick, if_pos ⟨h0, h1⟩, execSFatal]

/-- `SampleTick()` on a sample that is a level: the branches of R114 that R75's `inv = 0` leaves. -/
theorem sampleTick_of_level {s : State} {l : Level} (h : lineRead s = levelRaw l) :
    sampleTick s =
      if s.heldValid = false then .next { s with held := l, heldValid := true, cnt := 1 }
      else if l = s.held then
        if s.cnt.toNat + 1 = s.cfg.ceil then .next { s with timeout := true, cnt := 0, phase := .decode }
        else .next { s with cnt := s.cnt + 1 }
      else if s.widx.toNat + 1 = s.cfg.maxObs then recordObservation l { s with capHit := true, phase := .decode }
      else recordObservation l s := by
  have hlevel : ¬(lineRead s ≠ 0 ∧ lineRead s ≠ 1) := by
    rw [← levelOf_eq_none, h, levelOf_levelRaw]
    exact Option.some_ne_none l
  have heq : lineRead s = levelRaw s.held ↔ l = s.held := by rw [h, levelRaw_injective]
  rw [sampleTick, if_neg hlevel, execSFirst, execSTimeout, execSSame, execSCap, execSEdge]
  simp only [withLevel_of_level _ h, heq]

theorem recordObservation_of_lt {l : Level} {s : State} (h : s.widx.toNat < s.cfg.maxObs) :
    recordObservation l s = .next (recorded l s) := by
  rcases recordObservation_cases l s with ⟨hge, -⟩ | ⟨-, e⟩
  · omega
  · exact e

/-! ### Another value of `max_high` (R22) -/

abbrev withMaxHigh (m : Byte) (s : State) : State := { s with maxHigh := m }

theorem holdThen_withMaxHigh {p : Phase} {s t : State} (m : Byte) (h : holdThen p s = .next t) :
    holdThen p (withMaxHigh m s) = .next (withMaxHigh m t) := by
  cases h
  show Host.Outcome.next (if s.now.dlyDone then setPhase p (withMaxHigh m s) else withMaxHigh m s) = _
  split <;> rfl

theorem sampleTick_withMaxHigh {s t : State} (m : Byte) (h : sampleTick s = .next t) :
    sampleTick (withMaxHigh m s) = .next (withMaxHigh m t) := by
  rcases sampleTick_cases s with ⟨h0, h1, e⟩ | ⟨l, hl, hcases⟩
  · cases e.symm.trans h
    exact sampleTick_of_invalid h0 h1
  rw [sampleTick_of_level (s := withMaxHigh m s) hl]
  rcases hcases with ⟨hv, e⟩ | ⟨hv, hh, hc, e⟩ | ⟨hv, hh, hc, e⟩ | ⟨hv, hh, hx, e⟩ | ⟨hv, hh, hx, hw, e⟩ | ⟨-, -, -, e⟩ <;>
    cases e.symm.trans h
  · simp [hv]
  · simp [hv, hh, hc]
  · simp [hv, hh, hc]
  · simp [hv, hh, hx, recordObservation_of_lt, Nat.lt_of_succ_le hx.le]
  · simp [hv, hh, hx, recordObservation_of_lt, hw]

/-- R130: the function of the fold sets `max_high` from the duration or not at all. -/
theorem decoderFunction_withMaxHigh (d : DecoderState) (i : Nat) (x m : Byte) :
    ∃ m', decoderFunction { d with maxHigh := m } i x = { decoderFunction d i x with maxHigh := m' } := by
  unfold decoderFunction
  repeat' split
  all_goals exact ⟨_, rfl⟩

theorem decodeStep_of_read {s : State} {d : Byte} (hne : s.ridx ≠ s.obsLen) (hd : memRead s s.ridx.toNat = .next d) :
    decodeStep s = .next (consumed d s) := by
  rcases decodeStep_cases s with ⟨heq, -⟩ | ⟨-, d', hd', e⟩ | ⟨-, r, hr, -⟩ | ⟨-, r, hr, -⟩
  · exact absurd heq hne
  · cases hd.symm.trans hd'
    exact e
  · cases hd.symm.trans hr
  · cases hd.symm.trans hr

theorem decodeStep_withMaxHigh {s t : State} (m : Byte) (h : decodeStep s = .next t) :
    ∃ m', decodeStep (withMaxHigh m s) = .next (withMaxHigh m' t) := by
  rcases decodeStep_cases s with ⟨hend, e⟩ | ⟨hne, d, hd, e⟩ | ⟨-, r, -, e⟩ | ⟨-, r, -, e⟩ <;> cases e.symm.trans h
  · exact ⟨m, by rw [decodeStep, if_pos hend, execEndSeq]; rfl⟩
  · obtain ⟨m', hm'⟩ := decoderFunction_withMaxHigh (decoderState s) s.ridx.toNat d m
    have hconsumed : consumed d (withMaxHigh m s) = withMaxHigh m' (consumed d s) := by
      have hfunction : decoderFunction (decoderState (withMaxHigh m s)) s.ridx.toNat d = _ := hm'
      simp only [consumed, hfunction]
    exact ⟨m', by rw [decodeStep_of_read (s := withMaxHigh m s) hne hd, hconsumed]⟩

theorem phaseOperation_withMaxHigh {s t : State} (m : Byte) (h : phaseOperation s = .next t) :
    ∃ m', phaseOperation (withMaxHigh m s) = .next (withMaxHigh m' t) := by
  unfold phaseOperation at h ⊢
  cases hp : s.phase <;> simp only [hp] at h ⊢
  case sample =>
    refine ⟨m, ?_⟩
    show (if s.now.tick = true then _ else _) = _
    split at h
    · next ht => rw [if_pos ht, sampleTick_withMaxHigh m h]
    · next ht => cases h; rw [if_neg ht]
  case decode => exact decodeStep_withMaxHigh m h
  case wHighHold | wLowHold | wRelHold => exact ⟨m, holdThen_withMaxHigh m h⟩
  all_goals cases h; exact ⟨m, rfl⟩

/-- Settles O50: RESET and START load it, and the phase's operation copies or sets it. -/
theorem maxHighIsReadByNoOperation : Obligations.MaxHighIsReadByNoOperation := by
  intro s t m h
  rcases step_cases h with ⟨hr, rfl⟩ | ⟨hr, hs, ha, rfl⟩ | ⟨hn, u, hu, rfl⟩
  · exact ⟨_, step_of_rst (s := withMaxHigh m s) hr⟩
  · exact ⟨_, step_of_start (s := withMaxHigh m s) hr hs ha⟩
  · obtain ⟨m', hm'⟩ := phaseOperation_withMaxHigh m hu
    refine ⟨m', ?_⟩
    rw [step_of_noCommand (s := withMaxHigh m s) hn]
    exact congrArg closed hm'

/-! ### The complementary trace (R43) -/

theorem flipRaw_levelRaw (l : Level) : flipRaw (levelRaw l) = levelRaw (flipLevel l) := by
  cases l <;> rfl

theorem flipRaw_of_invalid {v : Nat} (h0 : v ≠ 0) (h1 : v ≠ 1) : flipRaw v = v := by
  match v with
  | v + 2 => rfl

theorem flipLevel_injective {a b : Level} : flipLevel a = flipLevel b ↔ a = b := by
  cases a <;> cases b <;> simp [flipLevel]

/-- The state on the complementary trace: the complementary inputs, and `h` in place of `held`. -/
abbrev complement (h : Level) (s : State) : State := { s with held := h, pending := s.pending.map flipInputs }

theorem now_complement {s : State} (h : Level) (hp : s.pending ≠ []) : (complement h s).now = flipInputs s.now := by
  unfold State.now
  cases hs : s.pending with
  | nil => exact absurd hs hp
  | cons e es => simp [hs]

/-- R43 (2): a tick of the complement is the complement of the tick. -/
theorem sampleTick_complement {s t : State} {h : Level} (hp : s.pending ≠ [])
    (hh : s.heldValid = true → h = flipLevel s.held) (ht : sampleTick s = .next t) :
    ∃ h', sampleTick (complement h s) = .next (complement h' t) ∧ (t.heldValid = true → h' = flipLevel t.held) := by
  have hraw : lineRead (complement h s) = flipRaw (lineRead s) := congrArg Inputs.lineIn (now_complement h hp)
  rcases sampleTick_cases s with ⟨h0, h1, e⟩ | ⟨l, hl, hcases⟩
  · cases e.symm.trans ht
    rw [flipRaw_of_invalid h0 h1] at hraw
    refine ⟨h, ?_, hh⟩
    rw [sampleTick_of_invalid (hraw ▸ h0) (hraw ▸ h1), hraw]
    rfl
  rw [hl, flipRaw_levelRaw] at hraw
  rw [sampleTick_of_level hraw]
  rcases hcases with ⟨hv, e⟩ | ⟨hv, heq, hc, e⟩ | ⟨hv, heq, hc, e⟩ | ⟨hv, hne, hx, e⟩ | ⟨hv, hne, hx, hw, e⟩ |
    ⟨-, -, -, e⟩ <;> cases e.symm.trans ht
  · exact ⟨flipLevel l, by simp [hv], fun _ => rfl⟩
  · exact ⟨h, by simp [hv, hh, heq, hc], hh⟩
  · exact ⟨h, by simp [hv, hh, heq, hc], hh⟩
  · refine ⟨flipLevel l, ?_, fun _ => rfl⟩
    simp [hv, hh, flipLevel_injective, hne, hx, recordObservation_of_lt, Nat.lt_of_succ_le hx.le]
  · refine ⟨flipLevel l, ?_, fun _ => rfl⟩
    simp [hv, hh, flipLevel_injective, hne, hx, recordObservation_of_lt, hw]

/-- The same of the whole operation of SAMPLE: the tick itself is on both traces or on neither. -/
theorem phaseOperation_complement {s t : State} {h : Level} (hphase : s.phase = .sample) (hp : s.pending ≠ [])
    (hh : s.heldValid = true → h = flipLevel s.held) (ht : phaseOperation s = .next t) :
    ∃ h', phaseOperation (complement h s) = .next (complement h' t) ∧ (t.heldValid = true → h' = flipLevel t.held) := by
  have htick : (complement h s).now.tick = s.now.tick := by
    rw [now_complement h hp]; rfl
  rw [phaseOperation_sample hphase] at ht
  rw [phaseOperation_sample (s := complement h s) hphase, htick]
  split at ht
  · next hticks => simpa only [if_pos hticks] using sampleTick_complement hp hh ht
  · next hidle => cases ht; exact ⟨h, if_neg hidle, hh⟩

/-- Settles O35: in SAMPLE without RESET both steps are the phase's operation. -/
theorem complementaryTracesRecordTheSame : Obligations.ComplementaryTracesRecordTheSame := by
  intro s t e es h hphase hq hr hh hstep
  have hp : s.pending ≠ [] := by simp [hq]
  have hnow : s.now = e := now_of_pending hq
  have hn : noCommand s := ⟨by rw [hnow, hr], fun _ => by rw [hphase]; rfl⟩
  have hn' : noCommand (complement h s) :=
    ⟨by rw [now_complement h hp, hnow]; exact hr, fun _ => by rw [hphase]; rfl⟩
  rw [step_of_noCommand hn] at hstep
  obtain ⟨u, hu, rfl⟩ := closed_eq_next.1 hstep
  obtain ⟨h', hu', hheld⟩ := phaseOperation_complement (s := openEdge s) hphase hp hh hu
  have hpending : u.pending = e :: es := (phaseOperation_sameModelFields hu).pending.trans hq
  refine ⟨h', ?_, hheld⟩
  calc step { s with held := h, pending := flipInputs e :: es.map flipInputs }
      = step (complement h s) := by simp [complement, hq]
    _ = closed (phaseOperation (complement h (openEdge s))) := step_of_noCommand hn'
    _ = .next (closeEdge (complement h' u)) := by rw [hu', closed_next]
    _ = _ := by simp [closeEdge, hpending]

end Sys2Proof.Machine
end

section
/-! The observation buffer (20_memory.md): what a read answers (R50, R52), what S_EDGE and S_CAP store (R51, R112, R113), and
that nothing else touches an entry (R62). -/

namespace Sys2Proof.Machine

/-! ### The two storing operations -/

theorem exec_sEdge_of_level {s : State} {l : Level} (h : s.now.lineIn = levelRaw l) :
    exec .sEdge s = recordObservation l s :=
  withLevel_of_level _ h

theorem exec_sCap_of_level {s : State} {l : Level} (h : s.now.lineIn = levelRaw l) :
    exec .sCap s = recordObservation l { s with capHit := true, phase := .decode } :=
  withLevel_of_level _ h

theorem recordObservation_of_ge {l : Level} {s : State} (h : s.cfg.maxObs ≤ s.widx.toNat) :
    recordObservation l s = .fault (.noSuchEntry s.widx.toNat) := by
  rcases recordObservation_cases l s with ⟨-, e⟩ | ⟨hlt, -⟩
  · exact e
  · omega

/-- Settles O31: both operations leave `recorded`, whose buffer is one write at `widx`. -/
theorem edgesRecordTheInterval : Obligations.EdgesRecordTheInterval := by
  intro s l hl hw
  refine ⟨Memory.write s.obs s.widx.toNat s.cnt, fun a => Memory.read_write _ _ _ _, ?_, ?_⟩
  · rw [exec_sEdge_of_level hl, recordObservation_of_lt hw]
  · rw [exec_sCap_of_level hl, recordObservation_of_lt (s := { s with capHit := true, phase := .decode }) hw]

/-- Settles O32: both operations write at `widx`, where there is no entry. -/
theorem noEntryIsWrittenAboveTheCap : Obligations.NoEntryIsWrittenAboveTheCap := by
  intro s l hl hw
  rw [exec_sEdge_of_level hl, exec_sCap_of_level hl]
  exact ⟨recordObservation_of_ge hw, recordObservation_of_ge (s := { s with capHit := true, phase := .decode }) hw⟩

/-! ### What a read answers -/

/-- R52: a read that finds a value below `obs_len` answers it. -/
theorem memRead_of_lt {s : State} {i : Nat} {v : Byte} (hmax : i < s.cfg.maxObs) (hlen : i < s.obsLen.toNat)
    (hv : Memory.read s.obs i = some v) : memRead s i = .next v := by
  rw [memRead, if_neg (Nat.not_le.2 hmax), if_neg (Nat.not_le.2 hlen), hv]

/-- R51, R52: under the invariant every entry below `obs_len` exists and is read. -/
theorem memRead_of_recorded {s : State} (h : Inv s) {i : Nat} (hi : i < s.obsLen.toNat) :
    ∃ v, memRead s i = .next v ∧ Memory.read s.obs i = some v := by
  obtain ⟨-, haddr, -, hlen, hmax⟩ := h.buffer
  obtain ⟨v, hv, -⟩ := Memory.read_of_range s.obs s.obsLen.toNat i haddr hi
  exact ⟨v, memRead_of_lt (hi.trans_le (hlen ▸ hmax)) hi hv, hv⟩

/-- Settles O37: the three ranges of an index are the three branches of the read. -/
theorem readIsDefinedBelowObsLenOnly : Obligations.ReadIsDefinedBelowObsLenOnly := by
  refine ⟨fun s i h hi => ?_, fun s i hlen hmax => ?_, fun s i hmax => ?_⟩
  · obtain ⟨v, hread, hv⟩ := memRead_of_recorded h hi
    exact ⟨v, hread, hv, memRead_lt_ceil h hread⟩
  · rw [memRead, if_neg (Nat.not_le.2 hmax), if_pos hlen]
  · rw [memRead, if_pos hmax]

/-! ### Entries once recorded -/

/-- What one operation does to the buffer: nothing, or `cnt` stored at `widx`, below the cap, and counted. -/
def EntriesStep (s t : State) : Prop :=
  SameEntries s t ∨
    (s.widx.toNat < s.cfg.maxObs ∧ t.obs = Memory.write s.obs s.widx.toNat s.cnt ∧ t.obsLen = s.widx + 1)

theorem sampleTick_entriesStep {s t : State} (h : sampleTick s = .next t) : EntriesStep s t := by
  rcases sampleTick_cases s with ⟨-, -, e⟩ | ⟨l, -, ⟨-, e⟩ | ⟨-, -, -, e⟩ | ⟨-, -, -, e⟩ | ⟨-, -, hx, e⟩ |
    ⟨-, -, -, hw, e⟩ | ⟨-, -, -, e⟩⟩ <;> cases e.symm.trans h
  any_goals exact .inl ⟨rfl, rfl⟩
  · exact .inr ⟨Nat.lt_of_succ_le hx.le, rfl, rfl⟩
  · exact .inr ⟨hw, rfl, rfl⟩

theorem decodeStep_sameEntries {s t : State} (h : decodeStep s = .next t) : SameEntries s t := by
  rcases decodeStep_cases s with ⟨-, e⟩ | ⟨-, d, -, e⟩ | ⟨-, r, -, e⟩ | ⟨-, r, -, e⟩ <;>
    cases e.symm.trans h <;> exact ⟨rfl, rfl⟩

/-- R57: of the phases' operations the tick alone stores. -/
theorem phaseOperation_entriesStep {s t : State} (h : phaseOperation s = .next t) : EntriesStep s t := by
  rcases phaseOperation_cases s t h with ⟨rfl, -⟩ | ⟨-, rfl⟩ | ⟨-, rfl⟩ | ⟨-, rfl⟩ | ⟨-, rfl⟩ | ⟨-, -, rfl⟩ |
    ⟨-, -, rfl⟩ | ⟨-, -, rfl⟩ | ⟨-, rfl⟩ | ⟨-, -, htick⟩ | ⟨-, hdecode⟩ | ⟨-, hvalidate⟩ | ⟨-, hconvert⟩
  any_goals exact .inl ⟨rfl, rfl⟩
  · exact sampleTick_entriesStep htick
  · exact .inl (decodeStep_sameEntries hdecode)
  · cases hvalidate; exact .inl ⟨rfl, rfl⟩
  · cases hconvert; exact .inl ⟨rfl, rfl⟩

/-- With no accepted command the step does to the buffer what the phase's operation does. -/
theorem step_entriesStep {s t : State} (hn : noCommand s) (h : step s = .next t) : EntriesStep s t := by
  rw [step_of_noCommand hn] at h
  obtain ⟨u, hu, rfl⟩ := closed_eq_next.1 h
  have hentries : EntriesStep (openEdge s) u := phaseOperation_entriesStep hu
  exact hentries

theorem EntriesStep.read_eq {s t : State} (h : EntriesStep s t) {a : Nat} (ha : a ≠ s.widx.toNat) :
    Memory.read t.obs a = Memory.read s.obs a := by
  rcases h with ⟨hobs, -⟩ | ⟨-, hobs, -⟩ <;> rw [hobs]
  exact Memory.read_write_other _ _ _ _ ha

theorem EntriesStep.obsLen_le {s t : State} (h : EntriesStep s t) (hinv : Inv s) :
    s.obsLen.toNat ≤ t.obsLen.toNat := by
  obtain ⟨-, hmax, -⟩ := hinv.cfgOk
  obtain ⟨-, -, -, hlen, -⟩ := hinv.buffer
  rcases h with ⟨-, heq⟩ | ⟨hw, -, heq⟩ <;> rw [heq]
  rw [toNat_succ_index _ (by omega), hlen]
  omega

/-- Settles O38: what is stored goes to `widx`, which is `obs_len`, so it is no recorded entry, and `obs_len` does not fall. -/
theorem entryIsImmutableOnceRecorded : Obligations.EntryIsImmutableOnceRecorded := by
  intro s t a hinv hn hstep
  have hentries : EntriesStep s t := step_entriesStep hn hstep
  refine ⟨fun ha => ?_, fun ha => hentries.read_eq ha⟩
  obtain ⟨-, -, -, hlen, hmax⟩ := hinv.buffer
  obtain ⟨hcfg, -, -⟩ := stepSpendsOneEdge s t hstep
  obtain ⟨v, hread, hv⟩ := memRead_of_recorded hinv ha
  rw [hread]
  rw [hlen] at ha
  refine memRead_of_lt (hcfg ▸ ha.trans_le hmax) ?_ ?_
  · exact (hlen ▸ ha).trans_le (hentries.obsLen_le hinv)
  · rw [hentries.read_eq ha.ne, hv]

end Sys2Proof.Machine
end

section
/-! Where the raw line value is read (R57, R114): at a tick in SAMPLE and nowhere else. -/

namespace Sys2Proof.Machine

/-- The edge's inputs with another raw line value. -/
abbrev withLine (v : Nat) (e : Inputs) : Inputs := { e with lineIn := v }

@[simp] theorem withInputs_phase (e : Inputs) (s : State) : (withInputs e s).phase = s.phase := rfl
@[simp] theorem withInputs_now (e : Inputs) (s : State) : (withInputs e s).now = e := rfl

theorem decodeStep_of_end {s : State} (h : s.ridx = s.obsLen) : decodeStep s = .next (setPhase .validate s) := by
  rw [decodeStep, if_pos h, execEndSeq]

theorem decodeStep_of_fault {s : State} {r : Fault} (hne : s.ridx ≠ s.obsLen)
    (hr : memRead s s.ridx.toNat = .fault r) : decodeStep s = .fault r := by
  rw [decodeStep, if_neg hne, hr]

theorem decodeStep_of_refused {s : State} {r : Refusal} (hne : s.ridx ≠ s.obsLen)
    (hr : memRead s s.ridx.toNat = .refused r) : decodeStep s = .refused r := by
  rw [decodeStep, if_neg hne, hr]

/-- R130: the decoder reads no input. -/
theorem closed_decodeStep_withInputs (a b : Inputs) (s : State) :
    closed (decodeStep (withInputs a s)) = closed (decodeStep (withInputs b s)) := by
  rcases decodeStep_cases (withInputs b s) with ⟨hend, e⟩ | ⟨hne, d, hd, e⟩ | ⟨hne, r, hr, e⟩ | ⟨hne, r, hr, e⟩ <;> rw [e]
  · rw [decodeStep_of_end (s := withInputs a s) hend]; rfl
  · rw [decodeStep_of_read (s := withInputs a s) hne hd]; rfl
  · rw [decodeStep_of_fault (s := withInputs a s) hne hr]
  · rw [decodeStep_of_refused (s := withInputs a s) hne hr]

/-- R102, R104, R106: a hold reads `dly_done` alone. -/
theorem closed_holdThen_withLine (v : Nat) (e : Inputs) (p : Phase) (s : State) :
    closed (holdThen p (withInputs (withLine v e) s)) = closed (holdThen p (withInputs e s)) := by
  show closed (.next (if e.dlyDone = true then _ else _)) = closed (.next (if e.dlyDone = true then _ else _))
  split <;> rfl

/-- R57: no phase's operation but a tick's reads the raw line value. -/
theorem closed_phaseOperation_withLine (v : Nat) (e : Inputs) {s : State} (h : s.phase ≠ .sample ∨ e.tick = false) :
    closed (phaseOperation (withInputs (withLine v e) s)) = closed (phaseOperation (withInputs e s)) := by
  unfold phaseOperation
  cases hp : s.phase <;> simp only [withInputs_phase, withInputs_now, hp]
  case sample =>
    have ht : e.tick = false := h.resolve_left fun hne => hne hp
    simp only [ht, Bool.false_eq_true, if_false]
    rfl
  case decode => exact closed_decodeStep_withInputs _ _ s
  case wHighHold | wLowHold | wRelHold => exact closed_holdThen_withLine v e _ s
  all_goals rfl

/-- The same of the whole step, which RESET and START decide before the phase. -/
theorem step_withLine (v : Nat) (e : Inputs) {s : State} (h : s.phase ≠ .sample ∨ e.tick = false ∨ e.rst = true) :
    step (withInputs (withLine v e) s) = step (withInputs e s) := by
  cases hr : e.rst with
  | true => rw [step_of_rst (s := withInputs e s) hr, step_of_rst (s := withInputs (withLine v e) s) hr]; rfl
  | false =>
    by_cases hc : e.start = true ∧ acceptsStart s.phase = true
    · obtain ⟨hs, ha⟩ := hc
      rw [step_of_start (s := withInputs e s) hr hs ha, step_of_start (s := withInputs (withLine v e) s) hr hs ha]
      rfl
    · have hn : noCommand (withInputs e s) := ⟨hr, fun hs => Bool.eq_false_iff.2 fun ha => hc ⟨hs, ha⟩⟩
      have hn' : noCommand (withInputs (withLine v e) s) := hn
      rw [step_of_noCommand hn, step_of_noCommand hn']
      exact closed_phaseOperation_withLine v e (s := openEdge s) (by simpa [hr] using h)

/-- Settles O36: the state is its first listed edge put before the others. -/
theorem lineIsReadOnlyAtATickInSample : Obligations.LineIsReadOnlyAtATickInSample := by
  intro s e es v hq h
  have hs : s = withInputs e { s with pending := es } := by rw [withInputs, ← hq]
  rw [hs]
  exact step_withLine v e (s := { s with pending := es }) h

end Sys2Proof.Machine
end

section
/-! The payload as a frame (20_memory.md): its bits in the order of acceptance (R54) and its fields (R55). -/

namespace Sys2Proof.Machine

/-! ### Shifting bits into the payload (R134, R56) -/

/-- R134: the new bit at bit 0, the others one up. -/
theorem getLsbD_shiftIn (v : Byte) (b : Bool) (j : Nat) :
    (shiftIn v b).getLsbD j = (decide (j < 8) && if j = 0 then b else v.getLsbD (j - 1)) := by
  cases j with
  | zero => simp [shiftIn]
  | succ j =>
    by_cases hj : j + 1 < 8
    · simp [shiftIn, hj, BitVec.getLsbD_eq_getElem (Nat.lt_of_succ_lt hj)]
    · simp [shiftIn, hj]

/-- R54, R56: the payload after `n` accepted bits, `b m` being the one accepted after `m` others: each byte holds its own
right-aligned, the last accepted one at bit 0, and zeros above. -/
def HoldsBits (b : Nat → Bool) (n : Nat) (p : Payload) : Prop :=
  ∀ k v, p.bytes[k]? = some v → ∀ j, v.getLsbD j = (decide (j < bitsInByte n k) && b (8 * k + (bitsInByte n k - 1 - j)))

theorem holdsBits_zero (b : Nat → Bool) : HoldsBits b 0 ⟨0, 0, 0, 0, 0⟩ := by
  intro k v hv j
  have hzero : v = 0 := by simpa [Payload.bytes] using List.mem_of_getElem? hv
  simp [hzero, bitsInByte]

/-- One accepted bit more. -/
theorem holdsBits_shiftInto {b : Nat → Bool} {n : Nat} {p : Payload} (h : HoldsBits b n p) :
    HoldsBits b (n + 1) (shiftInto p (n / 8) (b n)) := by
  intro k v hv j
  rw [bytes_shiftInto] at hv
  by_cases hk : n / 8 = k
  · rw [hk, List.getElem?_modify_eq, Option.map_eq_map, Option.map_eq_some_iff] at hv
    obtain ⟨w, hw, rfl⟩ := hv
    have hold : bitsInByte n k = n % 8 := by unfold bitsInByte; omega
    have hnew : bitsInByte (n + 1) k = n % 8 + 1 := by unfold bitsInByte; omega
    rw [getLsbD_shiftIn, h k w hw, hold, hnew]
    cases j with
    | zero => simp [show 8 * k + n % 8 = n by omega]
    | succ j =>
      have hrange : j + 1 < 8 ∧ j < n % 8 ↔ j < n % 8 := by omega
      simp [← Bool.and_assoc, ← Bool.decide_and, hrange, show n % 8 - 1 - j = n % 8 - (j + 1) by omega]
  · rw [List.getElem?_modify_ne _ _ hk] at hv
    have hsame : bitsInByte (n + 1) k = bitsInByte n k := by unfold bitsInByte; omega
    rw [h k v hv, hsame]

/-! ### The fold over a sequence (R130, R137) -/

/-- What holds before the first observation left and is kept by the consumption of each holds when the sequence is
exhausted. -/
theorem decoderFold_keeps {P : Nat → DecoderState → Prop} {xs : List Byte}
    (hstep : ∀ i x d, xs[i]? = some x → P i d → P (i + 1) (decoderFunction d i x)) {ys : List Byte} {i : Nat}
    {d : DecoderState} (hi : i ≤ xs.length) (hys : xs.drop i = ys) (h : P i d) : P xs.length (decoderFold d i ys) := by
  induction ys generalizing i d with
  | nil => rwa [decoderFold, le_antisymm (List.drop_eq_nil_iff.1 hys) hi]
  | cons y ys ih =>
    have hlt : i < xs.length := by
      by_contra hge
      simp [List.drop_eq_nil_iff.2 (Nat.le_of_not_lt hge)] at hys
    rw [List.drop_eq_getElem_cons hlt] at hys
    obtain ⟨rfl, hrest⟩ := List.cons.inj hys
    exact ih hlt hrest (hstep i _ d (List.getElem?_eq_getElem hlt) h)

/-- R54: `b_m`, the comparison of the HIGH duration of index `2m + 3` with the LOW duration before it. -/
def sequenceBit (xs : List Byte) (m : Nat) : Bool := decide (xs.getD (2 * m + 2) 0 ≤ xs.getD (2 * m + 3) 0)

theorem sequenceBit_eq {xs : List Byte} {m : Nat} {x y : Byte} (hx : xs[2 * m + 2]? = some x)
    (hy : xs[2 * m + 3]? = some y) : sequenceBit xs m = decide (x ≤ y) := by
  simp [sequenceBit, List.getD_eq_getElem?_getD, hx, hy]

/-- The decoder's registers before the observation of index `i` of the sequence: the count, the last duration of an even
index in `ref`, the accepted bits in the payload. -/
structure DecodesPrefix (xs : List Byte) (i : Nat) (d : DecoderState) : Prop where
  decoded : DecodedTo i d
  ref : 0 < i → xs[2 * ((i - 1) / 2)]? = some d.ref
  bits : HoldsBits (sequenceBit xs) d.bitCount.toNat d.payload

/-- R131, R132: an even index loads `ref`, an odd one leaves it. -/
theorem decoderFunction_ref (d : DecoderState) (i : Nat) (x : Byte) :
    (decoderFunction d i x).ref = if i % 2 = 0 then x else d.ref := by
  unfold decoderFunction
  split
  · next h2 => simp [h2]
  split
  · next h1 => simp [h1]
  split
  · next hodd => split <;> simp [hodd]
  · next heven => rw [if_pos (by omega)]

/-- Whether the observation of index `i` appends a bit (R134, R135). -/
def AppendsBit (i : Nat) (d : DecoderState) : Prop := i % 2 = 1 ∧ 3 ≤ i ∧ d.bitCount.toNat < 40

theorem decoderFunction_of_appendsBit {d : DecoderState} {i : Nat} (h : AppendsBit i d) (x : Byte) :
    decoderFunction d i x =
      { d with bitCount := d.bitCount + 1
               payload := shiftInto d.payload (d.bitCount.toNat / 8) (decide (d.ref.toNat ≤ x.toNat)) } := by
  obtain ⟨hodd, hfirst, hopen⟩ := h
  rw [decoderFunction, if_neg (by omega), if_neg (by omega), if_pos hodd, if_pos hopen]

theorem decoderFunction_of_not_appendsBit {d : DecoderState} {i : Nat} (h : ¬AppendsBit i d) (x : Byte) :
    (decoderFunction d i x).bitCount = d.bitCount ∧ (decoderFunction d i x).payload = d.payload := by
  unfold decoderFunction
  split
  · exact ⟨rfl, rfl⟩
  split
  · exact ⟨rfl, rfl⟩
  split
  · next hodd => rw [if_neg fun hopen => h ⟨hodd, by omega, hopen⟩]; exact ⟨rfl, rfl⟩
  · exact ⟨rfl, rfl⟩

/-- One observation more: an even index moves `ref`, and a bit appended compares the observation with the even index before
it. -/
theorem decodesPrefix_decoderFunction {xs : List Byte} {i : Nat} {x : Byte} {d : DecoderState} (hx : xs[i]? = some x)
    (h : DecodesPrefix xs i d) : DecodesPrefix xs (i + 1) (decoderFunction d i x) := by
  obtain ⟨hdecoded, href, hbits⟩ := h
  refine ⟨decodedTo_decoderFunction hdecoded x, fun _ => ?_, ?_⟩
  · rw [decoderFunction_ref]
    split
    · rwa [show 2 * ((i + 1 - 1) / 2) = i by omega]
    · rw [← href (by omega), show (i + 1 - 1) / 2 = (i - 1) / 2 by omega]
  by_cases ha : AppendsBit i d
  · rw [decoderFunction_of_appendsBit ha]
    obtain ⟨hodd, hfirst, hopen⟩ := ha
    have hcount : d.bitCount.toNat = min 40 ((i - 2) / 2) := hdecoded.1
    have hlow : xs[2 * d.bitCount.toNat + 2]? = some d.ref := by
      rw [← href (by omega), show 2 * d.bitCount.toNat + 2 = 2 * ((i - 1) / 2) by omega]
    have hhigh : xs[2 * d.bitCount.toNat + 3]? = some x := by
      rwa [show 2 * d.bitCount.toNat + 3 = i by omega]
    have hbit : sequenceBit xs d.bitCount.toNat = decide (d.ref.toNat ≤ x.toNat) := sequenceBit_eq hlow hhigh
    simp only [toNat_succ_bitCount d.bitCount (by omega), ← hbit]
    exact holdsBits_shiftInto hbits
  · obtain ⟨hcount, hpayload⟩ := decoderFunction_of_not_appendsBit ha x
    rwa [hcount, hpayload]

/-- R137: the registers when the whole sequence is consumed. -/
theorem decodesPrefix_decoderFold (xs : List Byte) :
    DecodesPrefix xs xs.length (decoderFold DecoderState.initial 0 xs) :=
  decoderFold_keeps (fun _ _ _ => decodesPrefix_decoderFunction) (Nat.zero_le _) rfl
    ⟨⟨rfl, filledTo_zero⟩, fun h => absurd h (Nat.lt_irrefl 0), holdsBits_zero _⟩

/-! ### The payload as one 40-bit number (R54, R55) -/

/-- Byte `k` is F's slice of 8 bits from `8 (4 - k)`: the bytes below it dropped. -/
theorem frame_byte {p : Payload} {k : Nat} {v : Byte} (h : p.bytes[k]? = some v) :
    p.frame.extractLsb' (8 * (4 - k)) 8 = v := by
  have hdrop {n i : Nat} (x : BitVec n) (y : Byte) (hi : 8 ≤ i) :
      (x ++ y).extractLsb' i 8 = x.extractLsb' (i - 8) 8 := BitVec.extractLsb'_append_eq_of_le hi
  unfold Payload.frame
  match k with
  | 0 =>
    cases h
    simp (disch := decide) only [hdrop]
    exact BitVec.extractLsb'_eq_self
  | 1 | 2 | 3 =>
    cases h
    simp (disch := decide) only [hdrop]
    exact BitVec.extractLsb'_append_eq_right
  | 4 =>
    cases h
    exact BitVec.extractLsb'_append_eq_right
  | k + 5 => simp [Payload.bytes] at h

/-- Two slices of F, one above the other, are one slice. -/
theorem frame_append {p : Payload} {i m n : Nat} (j : Nat) (hj : j = i + n) :
    p.frame.extractLsb' j m ++ p.frame.extractLsb' i n = p.frame.extractLsb' i (m + n) :=
  BitVec.extractLsb'_append_extractLsb'_eq_extractLsb' hj

theorem frame_humidity (p : Payload) : p.frame.extractLsb' 24 16 = p.humidityHigh ++ p.humidityLow := by
  have h0 : p.frame.extractLsb' 32 8 = p.humidityHigh := frame_byte (k := 0) rfl
  have h1 : p.frame.extractLsb' 24 8 = p.humidityLow := frame_byte (k := 1) rfl
  rw [← h0, ← h1, frame_append 32 rfl]

theorem frame_temperature (p : Payload) : p.frame.extractLsb' 8 16 = p.temperatureHigh ++ p.temperatureLow := by
  have h2 : p.frame.extractLsb' 16 8 = p.temperatureHigh := frame_byte (k := 2) rfl
  have h3 : p.frame.extractLsb' 8 8 = p.temperatureLow := frame_byte (k := 3) rfl
  rw [← h2, ← h3, frame_append 16 rfl]

/-- R156: the sign bit is F's bit 23. -/
theorem frame_temperatureNegative (p : Payload) : temperatureNegative p = p.frame.getLsbD 23 := by
  have h2 : p.frame.extractLsb' 16 8 = p.temperatureHigh := frame_byte (k := 2) rfl
  rw [temperatureNegative, ← h2, BitVec.getLsbD_extractLsb']
  rfl

/-- R156: the magnitude is the 15 bits of F below the sign bit. -/
theorem frame_temperatureMagnitude (p : Payload) : temperatureMagnitudeX10 p = p.frame.extractLsb' 8 15 := by
  have h2 : p.frame.extractLsb' 16 8 = p.temperatureHigh := frame_byte (k := 2) rfl
  have h3 : p.frame.extractLsb' 8 8 = p.temperatureLow := frame_byte (k := 3) rfl
  have hlow : (p.frame.extractLsb' 16 8).extractLsb' 0 7 = p.frame.extractLsb' 16 7 := by
    ext j hj
    simp [show j < 8 by omega]
  rw [temperatureMagnitudeX10, ← h2, ← h3, hlow, frame_append 16 rfl]

/-- R54: after 40 accepted bits, F's bit `39 - n` is the n-th. -/
theorem frame_getLsbD {b : Nat → Bool} {p : Payload} (h : HoldsBits b 40 p) {n : Nat} (hn : n < 40) :
    p.frame.getLsbD (39 - n) = b n := by
  obtain ⟨v, hv⟩ : ∃ v, p.bytes[n / 8]? = some v :=
    ⟨_, List.getElem?_eq_getElem (show n / 8 < p.bytes.length by simp [Payload.bytes]; omega)⟩
  have hfull : bitsInByte 40 (n / 8) = 8 := by unfold bitsInByte; omega
  calc p.frame.getLsbD (39 - n)
      = (p.frame.extractLsb' (8 * (4 - n / 8)) 8).getLsbD (7 - n % 8) := by
        rw [BitVec.getLsbD_extractLsb', decide_eq_true (by omega), Bool.true_and,
          show 8 * (4 - n / 8) + (7 - n % 8) = 39 - n by omega]
    _ = v.getLsbD (7 - n % 8) := by rw [frame_byte hv]
    _ = b (8 * (n / 8) + (8 - 1 - (7 - n % 8))) := by
        rw [h _ v hv, hfull, decide_eq_true (by omega), Bool.true_and]
    _ = b n := by rw [show 8 * (n / 8) + (8 - 1 - (7 - n % 8)) = n by omega]

/-- Settles O47: after at least 82 durations 40 bits are accepted; CONVERT reads the payload's bytes, which are F's. -/
theorem frameBitsStandInOrderOfAcceptance : Obligations.FrameBitsStandInOrderOfAcceptance := by
  refine ⟨fun xs n x y hlen hn hx hy => ?_, fun p => ⟨fun k v => frame_byte, frame_humidity p, frame_temperature p⟩,
    fun s t h => ?_⟩
  · obtain ⟨⟨hcount, -⟩, -, hbits⟩ := decodesPrefix_decoderFold xs
    have hfull : min Config.nBits ((xs.length - 2) / 2) = 40 := by
      have hN : Config.nBits = 40 := rfl
      omega
    rw [hcount, hfull] at hbits
    rw [frame_getLsbD hbits hn, sequenceBit_eq hx hy]
  · cases h
    exact ⟨(frame_humidity _).symm, frame_temperatureNegative _, frame_temperatureMagnitude _⟩

end Sys2Proof.Machine
end

section
/-! Decoding of the encoded frame is the identity (R79, R88). -/

namespace Sys2Proof.Machine

/-! ### `max_high` over a sequence (R132, R137) -/

theorem decoderFunction_maxHigh (d : DecoderState) (i : Nat) (x : Byte) :
    (decoderFunction d i x).maxHigh = if i = 2 then x else d.maxHigh := by
  unfold decoderFunction
  split
  · rfl
  split
  · rfl
  split
  · split <;> rfl
  · rfl

/-- R137: `max_high` is the duration of index 2, and its START value where the sequence has none. -/
theorem decoderFold_maxHigh (xs : List Byte) : (decoderFold DecoderState.initial 0 xs).maxHigh = xs[2]?.getD 0 := by
  have hend : (decoderFold DecoderState.initial 0 xs).maxHigh = (xs.take xs.length)[2]?.getD 0 := by
    refine decoderFold_keeps (P := fun i d => d.maxHigh = (xs.take i)[2]?.getD 0) (fun i x d hx h => ?_) (Nat.zero_le _)
      rfl rfl
    rw [decoderFunction_maxHigh, h, List.getElem?_take, List.getElem?_take]
    by_cases hi : i = 2
    · subst hi
      simp [hx]
    · simp [hi, show 2 < i + 1 ↔ 2 < i by omega]
  rwa [List.take_length] at hend

/-! ### The bits of a frame (R87, R88) -/

/-- In a concatenation of blocks of one length `n`, block `k` begins at `n * k`. -/
theorem getElem?_flatMap_of_length {α β : Type} {f : α → List β} {n : Nat} (hf : ∀ a, (f a).length = n) (xs : List α)
    (k : Nat) {j : Nat} (hj : j < n) : (xs.flatMap f)[n * k + j]? = xs[k]?.bind fun a => (f a)[j]? := by
  induction xs generalizing k with
  | nil => simp
  | cons x xs ih =>
    cases k with
    | zero => simp [List.flatMap_cons, List.getElem?_append_left (hj.trans_eq (hf x).symm)]
    | succ k =>
      have hskip : n * (k + 1) + j - n = n * k + j := by rw [Nat.mul_succ]; omega
      rw [List.flatMap_cons, List.getElem?_append_right (by rw [hf, Nat.mul_succ]; omega), hf, hskip, ih]
      rfl

/-- R87: bit 7 comes first. -/
theorem getElem?_bitsOfByte (v : Byte) {j : Nat} (hj : j < 8) : (bitsOfByte v)[j]? = some (v.getLsbD (7 - j)) := by
  match j with
  | 0 | 1 | 2 | 3 | 4 | 5 | 6 | 7 => rfl
  | j + 8 => omega

/-- The 40 bits of a payload in the order they are sent. -/
def frameBits (p : Payload) : List Bool := p.bytes.flatMap bitsOfByte

theorem getElem?_frameBits {p : Payload} {k : Nat} {v : Byte} (hv : p.bytes[k]? = some v) {j : Nat} (hj : j < 8) :
    (frameBits p)[8 * k + j]? = some (v.getLsbD (7 - j)) := by
  rw [frameBits, getElem?_flatMap_of_length (n := 8) (fun _ => rfl) _ _ hj, hv]
  exact getElem?_bitsOfByte v hj

theorem bitsInByte_forty {k : Nat} (hk : k < 5) : bitsInByte 40 k = 8 := by
  unfold bitsInByte
  omega

/-- R54: sent bit `m` is accepted after `m` others, so the payload is the one that holds its own bits. -/
theorem holdsBits_frameBits (p : Payload) : HoldsBits (fun m => (frameBits p).getD m false) 40 p := by
  intro k v hv j
  rw [bitsInByte_forty (List.mem_range.1 (mem_range_of_bytes hv))]
  by_cases hj : j < 8
  · simp only [List.getD_eq_getElem?_getD, getElem?_frameBits hv (show 8 - 1 - j < 8 by omega)]
    simp [hj, show 7 - (7 - j) = j by omega]
  · rw [BitVec.getLsbD_of_ge _ _ (Nat.le_of_not_lt hj), decide_eq_false hj, Bool.false_and]

/-- The bytes of a payload determine it. -/
theorem payload_eq_of_bytes {p q : Payload} (h : p.bytes = q.bytes) : p = q := by
  cases p
  cases q
  simpa [Payload.bytes] using h

/-- R54: 40 accepted bits determine the payload. -/
theorem holdsBits_unique {b c : Nat → Bool} {p q : Payload} (hp : HoldsBits b 40 p) (hq : HoldsBits c 40 q)
    (hbits : ∀ m < 40, b m = c m) : p = q := by
  refine payload_eq_of_bytes (List.ext_getElem rfl fun k hk hk' => BitVec.eq_of_getLsbD_eq fun j hj => ?_)
  have hk5 : k < 5 := hk
  rw [hp k _ (List.getElem?_eq_getElem hk), hq k _ (List.getElem?_eq_getElem hk'), bitsInByte_forty hk5,
    hbits _ (by omega)]

/-! ### The frame (R88) -/

theorem length_frameSequence (p : Payload) (a b lo s l : Byte) : (frameSequence p a b lo s l).length = 82 := rfl

/-- The pair of durations of sent bit `m`: the LOW one and the HIGH one. -/
theorem frameSequence_pair (p : Payload) (a b lo s l : Byte) {m : Nat} (hm : m < 40) :
    (frameSequence p a b lo s l)[2 * m + 2]? = some lo ∧
      (frameSequence p a b lo s l)[2 * m + 3]? = some (if (frameBits p).getD m false then l else s) := by
  have hbit : (frameBits p)[m]? = some ((frameBits p).getD m false) := by
    rw [List.getD_eq_getElem _ _ hm]
    exact List.getElem?_eq_getElem hm
  have hpair (j : Nat) (hj : j < 2) : (frameSequence p a b lo s l)[2 * m + j + 2]? =
      [lo, if (frameBits p).getD m false then l else s][j]? := by
    show ((frameBits p).flatMap fun t => [lo, if t then l else s])[2 * m + j]? = _
    rw [getElem?_flatMap_of_length (n := 2) (fun _ => rfl) _ _ hj, hbit]
    rfl
  exact ⟨hpair 0 (by decide), hpair 1 (by decide)⟩

/-- R79: with `s < lo <= l` the comparison of a bit's two durations is the bit. -/
theorem sequenceBit_frameSequence {p : Payload} {a b lo s l : Byte} (hs : s < lo) (hl : lo ≤ l) {m : Nat} (hm : m < 40) :
    sequenceBit (frameSequence p a b lo s l) m = (frameBits p).getD m false := by
  obtain ⟨hlow, hhigh⟩ := frameSequence_pair p a b lo s l hm
  rw [sequenceBit_eq hlow hhigh]
  cases (frameBits p).getD m false with
  | true => exact decide_eq_true hl
  | false => exact decide_eq_false (BitVec.not_le.2 hs)

/-- Settles O46: the 82 durations are consumed with every bit the one sent, which determines the payload; `ref` is the last LOW
duration and `max_high` the one of index 2. -/
theorem frameIsRecoveredExactly : Obligations.FrameIsRecoveredExactly := by
  intro p a b lo s l hs hl
  refine ⟨length_frameSequence p a b lo s l, ?_⟩
  obtain ⟨⟨hcount, -⟩, href, hbits⟩ := decodesPrefix_decoderFold (frameSequence p a b lo s l)
  have hmax := decoderFold_maxHigh (frameSequence p a b lo s l)
  rw [length_frameSequence] at hcount href
  obtain ⟨hlast, -⟩ := frameSequence_pair p a b lo s l (m := 39) (by decide)
  generalize decoderFold DecoderState.initial 0 (frameSequence p a b lo s l) = d at *
  obtain ⟨ref, maxHigh, bitCount, payload⟩ := d
  have hfull : bitCount = 40 := BitVec.eq_of_toNat_eq hcount
  have hpayload : payload = p :=
    holdsBits_unique (hcount ▸ hbits) (holdsBits_frameBits p) fun _ => sequenceBit_frameSequence hs hl
  have hlo : ref = lo := Option.some_injective _ ((href (by decide)).symm.trans hlast)
  rw [hfull, hpayload, hlo, show maxHigh = lo from hmax]

end Sys2Proof.Machine
end

section
/-! The decoder against the encodings (30_encoding.md): the words of each format, what is read from them, and the opcode table's
first matching row (R73). -/

namespace Sys2Proof

/-! ### The words of each format (R70, R74, R76, R77) -/

theorem exists_cmdWord {w : OpWord} (h : w.toNat < 2 ^ Format.cmd.width) : ∃ a b, w = cmdWord a b := by
  have hall : ∀ n : Fin 4, ∃ a b, BitVec.ofNat 16 n = cmdWord a b := by decide
  simpa using hall ⟨w.toNat, h⟩

/-- Of the sixteen phase codes one is unused (R86). -/
theorem exists_phWord {w : OpWord} (h : w.toNat < 2 ^ Format.ph.width) : w = 15 ∨ ∃ p, w = phWord p := by
  have hall : ∀ n : Fin 16, BitVec.ofNat 16 n = 15 ∨
      ∃ p ∈ [Phase.idle, .wDirOut, .wHigh, .wHighHold, .wLow, .wLowHold, .wRel, .wRelHold, .wListen, .sample, .decode,
        .validate, .convert, .done, .fatal], BitVec.ofNat 16 n = phWord p := by decide
  rcases hall ⟨w.toNat, h⟩ with hw | ⟨p, -, hw⟩
  · exact .inl (by simpa using hw)
  · exact .inr ⟨p, by simpa using hw⟩

theorem exists_scWord {w : OpWord} (h : w.toNat < 2 ^ Format.sc.width) : ∃ a b e f g, w = scWord a b e f g := by
  have hall : ∀ n : Fin 32, ∃ a b e f g, BitVec.ofNat 16 n = scWord a b e f g := by decide
  simpa using hall ⟨w.toNat, h⟩

/-- An observation word is its two fields. -/
theorem exists_obsWord {w : OpWord} (h : w.toNat < 2 ^ Format.obs.width) : ∃ i d, w = obsWord i d := by
  refine ⟨w.extractLsb' 8 7, w.extractLsb' 0 8, BitVec.eq_of_toNat_eq ?_⟩
  have hw : w.toNat < 32768 := h
  rw [obsWord_toNat, BitVec.extractLsb'_toNat, BitVec.extractLsb'_toNat, Nat.shiftRight_eq_div_pow,
    Nat.shiftRight_eq_div_pow]
  omega

/-- A word that is read fits its format. -/
theorem lt_width_of_decode {c : Cond} {f : Format} {w : OpWord} {i : Instr} (h : decode c f w = .ok i) :
    w.toNat < 2 ^ f.width := by
  by_contra hge
  simp [decode, Nat.le_of_not_lt hge] at h

/-! ### Observations (R72, R134, R135) -/

/-- R72 with the index as a word: the class is tested in the order CAL, SKIP, DATA, REF. -/
theorem decodeObs_eq (c : Cond) (i : Index) (d : Byte) :
    decodeObs c i d =
      if i = 2 then .cal d
      else if i = 1 then .skip d
      else if i.getLsbD 0 = true then (if c.frameFull = true then .dataSaturated i d else .data i d)
      else .ref i d := by
  have hcal : i.toNat = Config.calIndex ↔ i = 2 := (BitVec.toNat_inj (y := 2)).trans Iff.rfl
  have hskip : i.toNat = 1 ↔ i = 1 := (BitVec.toNat_inj (y := 1)).trans Iff.rfl
  have hodd : i.toNat % 2 = 1 ↔ i.getLsbD 0 = true := by simp [BitVec.getLsbD, Nat.testBit_zero]
  simp only [decodeObs, hcal, hskip, hodd]

/-- Settles O5: an observation word is read through its two fields, and the index alone decides. -/
theorem observationClassFollowsTheIndex : Obligations.ObservationClassFollowsTheIndex := fun c i d => by
  rw [decode_obsWord, decodeObs_eq]

/-! ### What the decoder answers -/

/-- What an operation read from a word has to be: legal, admitted by the conditions, and encoded in the word's format, a phase or
observation word exactly. -/
structure ReadsAs (c : Cond) (f : Format) (w : OpWord) (i : Instr) : Prop where
  wellFormed : i.wellFormed = true
  admitted : c.admits i = true
  format : (encode i).1 = f
  word : f = .ph ∨ f = .obs → (encode i).2 = w

theorem readsAs_cmdWord {c : Cond} {a b : Bool} {i : Instr} (h : decode c .cmd (cmdWord a b) = .ok i) :
    ReadsAs c .cmd (cmdWord a b) i := by
  rw [decode_cmdWord] at h
  split at h
  · cases h
    exact ⟨rfl, rfl, rfl, by simp⟩
  split at h
  · split at h
    · next hs => cases h; exact ⟨rfl, hs, rfl, by simp⟩
    · next hs => cases h; exact ⟨rfl, by simpa [Cond.admits] using hs, rfl, by simp⟩
  · cases h

theorem readsAs_phWord {c : Cond} {p : Phase} {i : Instr} (h : decode c .ph (phWord p) = .ok i) :
    ReadsAs c .ph (phWord p) i := by
  rw [decode_phWord] at h
  cases p <;> cases h <;> exact ⟨rfl, rfl, rfl, fun _ => rfl⟩

theorem readsAs_selectTick (c : Cond) (w : OpWord) (a b e f g : Bool) : ReadsAs c .sc w (selectTick a b e f g) := by
  unfold selectTick
  split <;> exact ⟨rfl, rfl, rfl, by simp⟩

theorem readsAs_decodeObs (c : Cond) (i : Index) (d : Byte) : ReadsAs c .obs (obsWord i d) (decodeObs c i d) := by
  refine ⟨decodeObs_wellFormed c i d, ?_, ?_, fun _ => ?_⟩ <;> rw [decodeObs_eq]
  · split
    · rfl
    split
    · rfl
    split
    · split
      · next hfull => exact hfull
      · next hopen => simpa [Cond.admits] using hopen
    · rfl
  · repeat' split
    all_goals rfl
  · split
    · next h => rw [h]; rfl
    split
    · next h => rw [h]; rfl
    repeat' split
    all_goals rfl

/-- Every word that fits its format is one of the format's encodings, and each is read as R70, R74, R76 and R77 have it. -/
theorem readsAs_of_decode {c : Cond} {f : Format} {w : OpWord} {i : Instr} (h : decode c f w = .ok i) :
    ReadsAs c f w i := by
  have hw := lt_width_of_decode h
  cases f with
  | cmd =>
    obtain ⟨a, b, rfl⟩ := exists_cmdWord hw
    exact readsAs_cmdWord h
  | ph =>
    rcases exists_phWord hw with rfl | ⟨p, rfl⟩
    · cases h
    · exact readsAs_phWord h
  | sc =>
    obtain ⟨a, b, e, f, g, rfl⟩ := exists_scWord hw
    cases (decode_scWord c a b e f g).symm.trans h
    exact readsAs_selectTick c _ a b e f g
  | obs =>
    obtain ⟨i, d, rfl⟩ := exists_obsWord hw
    cases (decode_obsWord c i d).symm.trans h
    exact readsAs_decodeObs c i d

/-- Settles O3: the four parts of `ReadsAs`, for every word that is read. -/
theorem decodedInstructionIsWellFormed : Obligations.DecodedInstructionIsWellFormed := fun _ _ _ _ h =>
  have ⟨hwf, hadmits, hfmt, hword⟩ := readsAs_of_decode h
  ⟨hwf, hadmits, hfmt, hword⟩

/-- Settles O7: a command word is presented only where a command is given, and the phase presents no word that is refused. -/
theorem everyFetchedWordDecodes : Obligations.EveryFetchedWordDecodes := by
  intro s f w h
  obtain ⟨i, hi⟩ : ∃ i, decode (Machine.condOf s) f w = .ok i := by
    unfold Machine.fetch at h
    split at h
    · next hcommand =>
      cases h
      rw [decode_cmdWord]
      split
      · exact ⟨_, rfl⟩
      · next hr =>
        rw [if_pos (by simpa [hr] using hcommand)]
        split <;> exact ⟨_, rfl⟩
    · rcases Machine.fetchPhase_cases s with ⟨e, -⟩ | ⟨r, e, -⟩ | ⟨r, e, -⟩ | ⟨f', w', i, e, hi, -, -⟩ <;>
        cases e.symm.trans h
      exact ⟨i, hi⟩
  exact ⟨i, hi, (readsAs_of_decode hi).wellFormed⟩

/-! ### The opcode table (R73, R75) -/

/-- The operation that the first matching row builds. -/
def firstRowInstr (c : Cond) (f : Format) (w : OpWord) : Option Instr := (firstRow c f w).map fun r => r.build w

theorem firstRowInstr_cmdWord (c : Cond) (a b : Bool) :
    firstRowInstr c .cmd (cmdWord a b) = (decode c .cmd (cmdWord a b)).toOption := by
  obtain ⟨accepted, full⟩ := c
  cases a <;> cases b <;> cases accepted <;> rfl

theorem firstRowInstr_phWord (c : Cond) (p : Phase) :
    firstRowInstr c .ph (phWord p) = (decode c .ph (phWord p)).toOption := by
  cases p <;> rfl

theorem firstRowInstr_scWord (c : Cond) (a b e f g : Bool) :
    firstRowInstr c .sc (scWord a b e f g) = some (selectTick a b e f g) := by
  cases a <;> cases b <;> cases e <;> cases f <;> cases g <;> rfl

/-- R75: the six rows are disjoint and cover all words. -/
theorem length_filter_scWord (c : Cond) (a b e f g : Bool) :
    (opcodeRows.filter fun r => r.matchesWord c .sc (scWord a b e f g)).length = 1 := by
  cases a <;> cases b <;> cases e <;> cases f <;> cases g <;> rfl

/-- The rows tried first are of the other formats. -/
theorem firstRow_obs (c : Cond) (w : OpWord) :
    firstRow c .obs w = observationAndEndRows.find? fun r => r.matchesWord c .obs w := by
  have hother : ∀ r ∈ commandAndPhaseRows ++ sampleRows, r.fmt ≠ .obs := by
    simp [commandAndPhaseRows, sampleRows, Row.plain]
  have hnone : (commandAndPhaseRows ++ sampleRows).find? (fun r => r.matchesWord c .obs w) = none :=
    List.find?_eq_none.2 fun r hr => by simp [Row.matchesWord, hother r hr]
  rw [firstRow, opcodeRows, List.find?_append, hnone, Option.none_or]

/-- A row's mask on the index field alone compares the masked index (R72). -/
theorem obsWord_and_index (i j k : Index) (d : Byte) : (obsWord i d &&& obsWord j 0 == obsWord k 0) = (i &&& j == k) := by
  have hinj : obsWord (i &&& j) 0 = obsWord k 0 ↔ i &&& j = k :=
    ⟨fun h => by rw [← obsWord_index (i &&& j) 0, h, obsWord_index], fun h => by rw [h]⟩
  rw [obsWord_and, show d &&& 0 = 0 from BitVec.and_zero, Bool.eq_iff_iff, beq_iff_eq, beq_iff_eq, hinj]

/-- The mask bit of the rows DATA and REF is the index's bit 0 (R72). -/
theorem and_one_beq : ∀ i : Index, (i &&& 1 == 1) = i.getLsbD 0 ∧ (i &&& 1 == 0) = !i.getLsbD 0 := by decide

/-- R73: among the five rows of format OBS the first that matches is the class of the index. -/
theorem firstRowInstr_obsWord (c : Cond) (i : Index) (d : Byte) :
    firstRowInstr c .obs (obsWord i d) = some (decodeObs c i d) := by
  have hall (k : Index) : (obsWord i d &&& 0x7F00 == obsWord k 0) = (i == k) := by
    rw [show (0x7F00 : OpWord) = obsWord (BitVec.allOnes 7) 0 from rfl, obsWord_and_index, BitVec.and_allOnes]
  have hcal : (obsWord i d &&& 0x7F00 == 0x0200) = (i == 2) := hall 2
  have hskip : (obsWord i d &&& 0x7F00 == 0x0100) = (i == 1) := hall 1
  have hodd : (obsWord i d &&& 0x0100 == 0x0100) = i.getLsbD 0 := (obsWord_and_index i 1 1 d).trans (and_one_beq i).1
  have heven : (obsWord i d &&& 0x0100 == 0x0000) = !i.getLsbD 0 := (obsWord_and_index i 1 0 d).trans (and_one_beq i).2
  rw [decodeObs_eq]
  simp only [firstRowInstr, firstRow_obs, observationAndEndRows, List.find?_cons, Row.matchesWord, hcal, hskip, hodd, heven,
    decide_true, Bool.true_and, Bool.and_true]
  by_cases h2 : i = 2
  · simp [h2]
  by_cases h1 : i = 1
  · simp [h1]
  rw [beq_eq_false_iff_ne.2 h2, beq_eq_false_iff_ne.2 h1, if_neg h2, if_neg h1]
  cases i.getLsbD 0
  · simp
  · cases c.frameFull <;> simp

/-! ### The claims -/

/-- Settles O4: on the words of each format, which are its encodings, the table answers what the decoder reads; in SAMPLE
without a held level `cnt` is 0, below the last count of an interval. -/
theorem decodeIsTheFirstMatchingRow : Obligations.DecodeIsTheFirstMatchingRow := by
  refine ⟨fun c f w hw => ?_, fun c w hw => ?_, fun s h hphase hfirst => ?_⟩
  · show _ = firstRowInstr c f w
    cases f with
    | cmd =>
      obtain ⟨a, b, rfl⟩ := exists_cmdWord hw
      rw [firstRowInstr_cmdWord]
    | ph =>
      rcases exists_phWord hw with rfl | ⟨p, rfl⟩
      · rfl
      · rw [firstRowInstr_phWord]
    | sc =>
      obtain ⟨a, b, e, f, g, rfl⟩ := exists_scWord hw
      rw [firstRowInstr_scWord, decode_scWord]
      rfl
    | obs =>
      obtain ⟨i, d, rfl⟩ := exists_obsWord hw
      rw [firstRowInstr_obsWord, decode_obsWord]
      rfl
  · obtain ⟨a, b, e, f, g, rfl⟩ := exists_scWord hw
    exact length_filter_scWord c a b e f g
  · obtain ⟨-, -, hceil, -⟩ := h.cfgOk
    obtain ⟨-, -, -, hnone⟩ := h.sampler
    obtain ⟨hcnt, -⟩ := hnone hphase (by simpa [Machine.condFirst] using hfirst)
    rw [Machine.condLastCnt, hcnt, beq_eq_false_iff_ne]
    show 0 + 1 ≠ _
    omega

/-- Settles O1: each word is computed through the decoder. -/
theorem sampleWordsDecode : Obligations.SampleWordsDecode :=
  ⟨rfl, rfl, rfl, rfl, rfl, rfl, rfl, rfl, rfl, rfl, rfl, rfl, rfl, rfl, rfl, rfl, rfl⟩

end Sys2Proof
end

section
/-! The outcome the host reads (R80, R191). -/

namespace Sys2Proof.Machine

/-- R80, R154: the three conditions, of which completeness is tested first. -/
theorem statusOf_iff (complete ok : Bool) :
    (statusOf complete ok = .success ↔ complete = true ∧ ok = true) ∧
      (statusOf complete ok = .incompleteFrame ↔ complete = false) ∧
      (statusOf complete ok = .checksumMismatch ↔ complete = true ∧ ok = false) := by
  cases complete <;> cases ok <;> simp [statusOf]

/-- R80: code 3 is held by no status. -/
theorem statusCode_ne_three (st : Status) : statusCode st ≠ 3 := by
  cases st <;> decide

/-- Settles O56: in DONE the invariant gives the flags as VALIDATE computed them and the status as R154 has it of them; in FATAL
`done` is 0. -/
theorem outcomeFollowsTheStatusTable : Obligations.OutcomeFollowsTheStatusTable := by
  intro s h
  obtain ⟨hdone, hfatal, -⟩ := h.flags
  refine ⟨fun hd => ?_, fun hf => ?_, rfl, rfl, rfl, statusCode_ne_three _⟩
  · have hp : s.phase = .done := hdone.1 hd
    obtain ⟨hresults, -⟩ := h.results
    rw [if_pos (.inr hp)] at hresults
    obtain ⟨hcalc, hcomplete, hok, hsuccess, hstatus⟩ := hresults
    have hcomplete' : s.complete = true ↔ 40 ≤ s.bitCount.toNat := by
      rw [hcomplete]
      exact decide_eq_true_iff
    have hok' : s.csumOk = true ↔ s.csumCalc = s.payload.checksum := by rw [hok, hcalc, csumOkOf, beq_iff_eq]
    obtain ⟨hS, hI, hM⟩ := statusOf_iff s.complete s.csumOk
    rw [← hstatus, hcomplete', hok'] at hS
    rw [← hstatus, ← Bool.not_eq_true, hcomplete', Nat.not_le] at hI
    rw [← hstatus, hcomplete', ← Bool.not_eq_true, hok'] at hM
    have hread : s.success = true ↔ s.status = .success := by
      rw [hS, hsuccess, Bool.and_eq_true, hcomplete', hok']
    refine ⟨hS, hI, hM, ?_⟩
    simp [HostView.outcome, hostView, HostView.reading, hd, hread]
  · have hd : s.done = false := Bool.eq_false_iff.2 fun hd => by cases (hdone.1 hd).symm.trans (hfatal.1 hf)
    exact ⟨hd, by simp [HostView.outcome, hostView, hd]⟩

end Sys2Proof.Machine
end

section
/-! The pulse sampler (40_sampler.md): which operation a tick performs (R114), what one run of equal samples records (R115), that
no step stops, and that sampling ends (R116). -/

namespace Sys2Proof.Machine

/-! ### The tick of SAMPLE (R114) -/

/-- Settles O24: each of the five takes its operand by `withLevel`, which answers the fatal stop where there is no level. -/
theorem levelTicksOnAnInvalidSampleStopFatally : Obligations.LevelTicksOnAnInvalidSampleStopFatally := by
  intro s i hi h0 h1
  simp only [levelTicks, List.mem_cons, List.not_mem_nil, or_false] at hi
  rcases hi with rfl | rfl | rfl | rfl | rfl <;> exact withLevel_of_invalid _ h0 h1

/-- The operation that `SampleTick()` names. -/
def chosenTick (s : State) : Instr :=
  if s.now.lineIn ≠ 0 ∧ s.now.lineIn ≠ 1 then .sFatal
  else if s.heldValid = false then .sFirst
  else if s.now.lineIn = levelRaw s.held then (if s.cnt.toNat + 1 = s.cfg.ceil then .sTimeout else .sSame)
  else if s.widx.toNat + 1 = s.cfg.maxObs then .sCap
  else .sEdge

theorem sampleTick_eq_exec (s : State) : sampleTick s = exec (chosenTick s) s := by
  unfold sampleTick chosenTick lineRead
  split_ifs <;> rfl

/-- In SAMPLE a START is ignored (R173). -/
theorem noCommand_of_sample {s : State} (hp : s.phase = .sample) (hr : s.now.rst = false) : noCommand s :=
  ⟨hr, fun _ => by rw [hp]; rfl⟩

theorem step_of_tick {s : State} (hp : s.phase = .sample) (hr : s.now.rst = false) (ht : s.now.tick = true) :
    step s = closed (sampleTick (openEdge s)) := by
  rw [step_of_noCommand (noCommand_of_sample hp hr), phaseOperation_sample (s := openEdge s) hp, now_openEdge, if_pos ht]

theorem step_of_no_tick {s : State} (hp : s.phase = .sample) (hr : s.now.rst = false) (ht : s.now.tick = false) :
    step s = .next (closeEdge (openEdge s)) := by
  rw [step_of_noCommand (noCommand_of_sample hp hr), phaseOperation_sample (s := openEdge s) hp, now_openEdge,
    if_neg (Bool.eq_false_iff.1 ht), closed_next]

/-- Settles O29: without a tick the edge alone passes; with one the branches of `SampleTick()` are the operations. -/
theorem sampleTickChoosesTheOperation : Obligations.SampleTickChoosesTheOperation := by
  intro s hp hr
  refine ⟨fun ht => ⟨_, step_of_no_tick hp hr ht, rfl⟩, fun ht => ?_⟩
  rw [step_of_tick hp hr ht, sampleTick_eq_exec]
  rfl

/-! ### No step stops (R116, R130) -/

/-- R50: with `widx` below the cap a tick has an entry to write. -/
theorem sampleTick_answers {s : State} (hw : s.widx.toNat < s.cfg.maxObs) : ∃ t, sampleTick s = .next t := by
  rcases sampleTick_cases s with ⟨-, -, e⟩ | ⟨l, -, ⟨-, e⟩ | ⟨-, -, -, e⟩ | ⟨-, -, -, e⟩ | ⟨-, -, -, e⟩ |
    ⟨-, -, -, -, e⟩ | ⟨-, -, hge, -⟩⟩
  any_goals exact ⟨_, e⟩
  exact absurd hw (Nat.not_lt.2 hge)

/-- R52: the decoder reads only below `obs_len`. -/
theorem decodeStep_answers {s : State} (h : Inv s) : ∃ t, decodeStep s = .next t := by
  by_cases he : s.ridx = s.obsLen
  · exact ⟨_, decodeStep_of_end he⟩
  · obtain ⟨hle, -⟩ := h.decoder
    have hlt : s.ridx.toNat < s.obsLen.toNat := lt_of_le_of_ne hle fun e => he (BitVec.eq_of_toNat_eq e)
    obtain ⟨d, hd, -⟩ := memRead_of_recorded h hlt
    exact ⟨_, decodeStep_of_read he hd⟩

theorem phaseOperation_answers {s : State} (h : Inv s) : ∃ t, phaseOperation s = .next t := by
  unfold phaseOperation
  cases hp : s.phase
  case sample =>
    obtain ⟨-, -, hw, -⟩ := h.sampler
    cases s.now.tick
    · exact ⟨s, rfl⟩
    · exact sampleTick_answers (hw hp)
  case decode => exact decodeStep_answers h
  all_goals exact ⟨_, rfl⟩

/-- Settles O9: RESET and START have no case that stops, and under the invariant neither has the phase's operation. -/
theorem stepNeverStopsUnderTheInvariant : Obligations.StepNeverStopsUnderTheInvariant := by
  intro s h
  cases hr : s.now.rst with
  | true => exact ⟨_, step_of_rst hr⟩
  | false =>
    by_cases hc : s.now.start = true ∧ acceptsStart s.phase = true
    · exact ⟨_, step_of_start hr hc.1 hc.2⟩
    · have hn : noCommand s := ⟨hr, fun hs => Bool.eq_false_iff.2 fun ha => hc ⟨hs, ha⟩⟩
      obtain ⟨u, hu⟩ := phaseOperation_answers (inv_openEdge h)
      exact ⟨closeEdge u, by rw [step_of_noCommand hn, hu, closed_next]⟩

/-! ### Runs from SAMPLE -/

/-- After an edge the inputs of the edges to come are the same ones, each one edge nearer. -/
theorem inputsAt_of_step {s t : State} (h : step s = .next t) (k : Nat) : t.inputsAt k = s.inputsAt (k + 1) := by
  obtain ⟨-, hedge, hpending⟩ := stepSpendsOneEdge s t h
  exact inputsAt_of_spent s t k hpending hedge

theorem noResetFor_of_step {s t : State} {n : Nat} (hn : noResetFor (n + 1) s) (h : step s = .next t) :
    noResetFor n t := fun k hk => by
  rw [inputsAt_of_step h]
  exact hn (k + 1) (Nat.succ_lt_succ hk)

theorem rst_of_noResetFor {s : State} {n : Nat} (hn : noResetFor (n + 1) s) : s.now.rst = false :=
  inputsAt_zero s ▸ hn 0 n.succ_pos

/-! ### One run of equal samples (R115) -/

/-- R110: a tick at the held level below the ceiling counts. -/
theorem step_of_sSame {s : State} (hp : s.phase = .sample) (hr : s.now.rst = false) (ht : s.now.tick = true)
    (hv : s.heldValid = true) (hl : s.now.lineIn = levelRaw s.held) (hc : s.cnt.toNat + 1 < s.cfg.ceil) :
    step s = .next (closeEdge { openEdge s with cnt := s.cnt + 1 }) := by
  rw [step_of_tick hp hr ht, sampleTick_of_level (s := openEdge s) hl]
  simp [hv, hc.ne]

/-- R112: a tick at the other level below the cap records. -/
theorem step_of_sEdge {s : State} {l : Level} (hp : s.phase = .sample) (hr : s.now.rst = false) (ht : s.now.tick = true)
    (hv : s.heldValid = true) (hl : s.now.lineIn = levelRaw l) (hne : l ≠ s.held) (hw : s.widx.toNat + 1 < s.cfg.maxObs) :
    step s = .next (closeEdge (recorded l (openEdge s))) := by
  have hlt : (openEdge s).widx.toNat < (openEdge s).cfg.maxObs := Nat.lt_of_succ_lt hw
  rw [step_of_tick hp hr ht, sampleTick_of_level (s := openEdge s) hl, recordObservation_of_lt hlt]
  simp [hv, hne, hw.ne]

/-- R51: what is recorded is read back at the address it went to. -/
theorem memRead_recorded {s : State} (l : Level) (hw : s.widx.toNat < s.cfg.maxObs)
    (hsucc : (s.widx + 1).toNat = s.widx.toNat + 1) : memRead (recorded l s) s.widx.toNat = .next s.cnt :=
  memRead_of_lt hw (hsucc ▸ Nat.lt_succ_self _) (Memory.read_write_same _ _ _)

theorem flipLevel_ne (l : Level) : flipLevel l ≠ l := by
  cases l <;> decide

/-- Settles O33, by induction on the ticks at the held level: each moves `cnt` alone, and the edge records what it has come to. -/
theorem runIsRecordedWithItsLength : Obligations.RunIsRecordedWithItsLength := by
  intro s n l
  induction n generalizing s with
  | zero =>
    intro hinv hp hv hheld hreset htick _ hedge _ hw
    rw [inputsAt_zero] at hedge
    have ht : s.now.tick = true := inputsAt_zero s ▸ htick 0 Nat.one_pos
    have hstep := step_of_sEdge hp (rst_of_noResetFor hreset) ht hv hedge (hheld ▸ flipLevel_ne l) hw
    obtain ⟨-, hmax, -⟩ := hinv.cfgOk
    obtain ⟨-, -, -, hlen, -⟩ := hinv.buffer
    have hsucc : (s.widx + 1).toNat = s.widx.toNat + 1 := toNat_succ_index _ (by omega)
    refine ⟨_, runEdges_succ 0 hstep, hp, ?_, hsucc, rfl, rfl, rfl, fun a ha => ?_⟩
    · rw [BitVec.add_zero]
      exact memRead_recorded (s := openEdge s) (flipLevel l) (Nat.lt_of_succ_lt hw) hsucc
    · have hn : noCommand s := noCommand_of_sample hp (rst_of_noResetFor hreset)
      obtain ⟨hkept, -⟩ := entryIsImmutableOnceRecorded s _ a hinv hn hstep
      exact hkept (hlen ▸ ha)
  | succ n ih =>
    intro hinv hp hv hheld hreset htick hsame hedge hc hw
    have ht : s.now.tick = true := inputsAt_zero s ▸ htick 0 (Nat.succ_pos _)
    have hl : s.now.lineIn = levelRaw s.held := by
      rw [← inputsAt_zero, hheld]
      exact hsame 0 n.succ_pos
    have hstep := step_of_sSame hp (rst_of_noResetFor hreset) ht hv hl (by omega)
    obtain ⟨-, -, -, hceil, -⟩ := hinv.cfgOk
    have hsucc : (s.cnt + 1).toNat = s.cnt.toNat + 1 := toNat_succ_byte _ (by omega)
    have hcount : s.cnt + BitVec.ofNat 8 (n + 1) = s.cnt + 1 + BitVec.ofNat 8 n := by
      rw [Nat.add_comm n, BitVec.ofNat_add, BitVec.add_assoc]
      rfl
    rw [runEdges_succ (n + 1) hstep, hcount]
    refine ih _ (stepKeepsTheInvariant _ _ hinv hstep) hp hv hheld (noResetFor_of_step hreset hstep) (fun k hk => ?_)
      (fun k hk => ?_) ?_ ?_ hw
    · rw [inputsAt_of_step hstep]
      exact htick (k + 1) (Nat.succ_lt_succ hk)
    · rw [inputsAt_of_step hstep]
      exact hsame (k + 1) (Nat.succ_lt_succ hk)
    · rw [inputsAt_of_step hstep]
      exact hedge
    · show (s.cnt + 1).toNat + n < s.cfg.ceil
      omega

/-! ### Sampling ends (R116) -/

/-- How many ticks an exchange has had at the most in `widx` recorded intervals and the `cnt` samples of the present one, where an
interval takes `CEIL` ticks at the most: the measure that every tick of SAMPLE raises. -/
def tickProgress (s : State) : Nat := s.widx.toNat * s.cfg.ceil + s.cnt.toNat

/-- R46: `widx` is below `MAX_OBS` in SAMPLE and `cnt` below `CEIL`. -/
theorem tickProgress_lt {s : State} (h : Inv s) (hp : s.phase = .sample) : tickProgress s < s.cfg.maxObs * s.cfg.ceil := by
  obtain ⟨hcnt, -, hw, -⟩ := h.sampler
  calc tickProgress s < (s.widx.toNat + 1) * s.cfg.ceil := by rw [tickProgress, Nat.succ_mul]; omega
    _ ≤ s.cfg.maxObs * s.cfg.ceil := Nat.mul_le_mul_right _ (hw hp)

/-- A tick ends the sampling or is counted, in `cnt` or as a whole interval. -/
theorem sampleTick_progress {s t : State} (h : Inv s) (hp : s.phase = .sample) (ht : sampleTick s = .next t) :
    (t.phase = .decode ∨ t.phase = .fatal) ∨ (t.phase = .sample ∧ tickProgress s < tickProgress t) := by
  obtain ⟨-, hmax, -, hceil, -⟩ := h.cfgOk
  obtain ⟨hcnt, -, -, hfirst⟩ := h.sampler
  rcases sampleTick_cases s with ⟨-, -, e⟩ | ⟨l, -, ⟨hv, e⟩ | ⟨-, -, -, e⟩ | ⟨-, -, hc, e⟩ | ⟨-, -, -, e⟩ |
    ⟨-, -, hx, hw, e⟩ | ⟨-, -, -, e⟩⟩ <;> cases e.symm.trans ht
  · exact .inl (.inr rfl)
  · refine .inr ⟨hp, ?_⟩
    obtain ⟨hcnt0, -⟩ := hfirst hp hv
    simp [tickProgress, hcnt0]
  · exact .inl (.inl rfl)
  · refine .inr ⟨hp, ?_⟩
    simp only [tickProgress, toNat_succ_byte s.cnt (by omega)]
    omega
  · exact .inl (.inl rfl)
  · refine .inr ⟨hp, ?_⟩
    simp only [tickProgress, toNat_succ_index s.widx (by omega), Nat.succ_mul]
    omega

/-- A step in SAMPLE ends the sampling or raises the measure by the tick, if it has one. -/
theorem step_progress {s t : State} (h : Inv s) (hp : s.phase = .sample) (hr : s.now.rst = false)
    (hstep : step s = .next t) :
    (t.phase = .decode ∨ t.phase = .fatal) ∨
      (t.phase = .sample ∧ tickProgress s + s.now.tick.toNat ≤ tickProgress t) := by
  cases ht : s.now.tick with
  | false =>
    cases (step_of_no_tick hp hr ht).symm.trans hstep
    exact .inr ⟨hp, Nat.le_refl _⟩
  | true =>
    rw [step_of_tick hp hr ht] at hstep
    obtain ⟨u, hu, rfl⟩ := closed_eq_next.1 hstep
    have hprogress := sampleTick_progress (inv_openEdge h) hp hu
    exact hprogress

/-- How many of the next `n` edges have a tick. -/
def ticksWithin (n : Nat) (s : State) : Nat := (List.range n).countP fun k => (s.inputsAt k).tick

theorem ticksWithin_succ {s t : State} (n : Nat) (h : step s = .next t) :
    ticksWithin (n + 1) s = s.now.tick.toNat + ticksWithin n t := by
  have hshift : ticksWithin n t = (List.range n).countP fun k => (s.inputsAt (k + 1)).tick := by
    simp only [ticksWithin, inputsAt_of_step h]
  rw [hshift, ticksWithin, List.range_succ_eq_map, List.countP_cons, List.countP_map, inputsAt_zero, Nat.add_comm]
  cases s.now.tick <;> rfl

/-- The ticks that remain before the measure reaches its bound are enough, from any state of SAMPLE. -/
theorem sampling_ends {s : State} {n : Nat} (h : Inv s) (hp : s.phase = .sample) (hn : noResetFor n s)
    (hticks : s.cfg.maxObs * s.cfg.ceil ≤ tickProgress s + ticksWithin n s) :
    ∃ k t, k ≤ n ∧ runEdges k s = .next t ∧ (t.phase = .decode ∨ t.phase = .fatal) := by
  induction n generalizing s with
  | zero => exact absurd (tickProgress_lt h hp) (Nat.not_lt.2 hticks)
  | succ n ih =>
    obtain ⟨u, hstep⟩ := stepNeverStopsUnderTheInvariant s h
    rcases step_progress h hp (rst_of_noResetFor hn) hstep with hend | ⟨hp', hprogress⟩
    · exact ⟨1, u, n.succ_pos, runEdges_succ 0 hstep, hend⟩
    · obtain ⟨hcfg, -, -⟩ := stepSpendsOneEdge s u hstep
      rw [ticksWithin_succ n hstep] at hticks
      obtain ⟨k, t, hk, hrun, hend⟩ :=
        ih (stepKeepsTheInvariant s u h hstep) hp' (noResetFor_of_step hn hstep) (by rw [hcfg]; omega)
      exact ⟨k + 1, t, Nat.succ_le_succ hk, (runEdges_succ k hstep).trans hrun, hend⟩

/-- Settles O34: the ticks alone reach the bound of the measure. -/
theorem samplingAlwaysEnds : Obligations.SamplingAlwaysEnds := fun _ _ h hp hn hticks =>
  sampling_ends h hp hn (Nat.le_add_left_of_le hticks)

end Sys2Proof.Machine
end

section
/-! The decoder as a fold (41_decoder.md): one bit of DATA (R134, R135), one step of DECODE, and the whole sequence (R130). -/

namespace Sys2Proof.Machine

/-! ### One bit (R134, R135) -/

theorem shiftIn_eq_ofNat (v : Byte) (b : Bool) : shiftIn v b = BitVec.ofNat 8 (2 * v.toNat + b.toNat) :=
  BitVec.eq_of_toNat_eq (by rw [shiftIn_toNat, BitVec.toNat_ofNat])

/-- R134, the bytes by their places. -/
theorem bytes_shiftInto_eq_mapIdx (p : Payload) (n : Nat) (b : Bool) :
    (shiftInto p n b).bytes =
      p.bytes.mapIdx fun k v => if k = n then BitVec.ofNat 8 (2 * v.toNat + b.toNat) else v := by
  rw [bytes_shiftInto]
  refine List.ext_getElem? fun k => ?_
  rw [List.getElem?_modify, List.getElem?_mapIdx]
  by_cases hk : n = k
  · simp [hk, shiftIn_eq_ofNat]
  · simp [hk, Ne.symm hk]

theorem dataBit_toNat (d ref : Byte) : (dataBit d ref).toNat = if ref ≤ d then 1 else 0 :=
  Bool.cond_decide _ _ _

/-- Settles O42: below 40 the bit goes into the one byte that `shiftInto` changes; from 40 on the frame is not open. -/
theorem dataAppendsOneBit : Obligations.DataAppendsOneBit := by
  refine fun s i d => ⟨fun hopen => ⟨shiftInto s.payload (s.bitCount.toNat / 8) (dataBit d s.ref), ?_, ?_⟩, fun hfull => ?_⟩
  · rw [bytes_shiftInto_eq_mapIdx, dataBit_toNat]
  · have ho : frameOpen s = true := decide_eq_true hopen
    rw [exec, execData, if_pos ho]
    rfl
  · have hc : ¬frameOpen s = true := fun h => Nat.not_lt.2 hfull (of_decide_eq_true h)
    rw [exec, execData, if_neg hc]
    rfl

/-! ### One step of DECODE (R130) -/

/-- In DECODE a START is ignored (R173). -/
theorem step_of_decode {s : State} (hp : s.phase = .decode) (hr : s.now.rst = false) :
    step s = closed (decodeStep (openEdge s)) := by
  have hn : noCommand s := ⟨hr, fun _ => by rw [hp]; rfl⟩
  rw [step_of_noCommand hn, phaseOperation_decode (s := openEdge s) hp]

theorem step_of_observation {s : State} {d : Byte} (hp : s.phase = .decode) (hr : s.now.rst = false)
    (hne : s.ridx ≠ s.obsLen) (hd : memRead s s.ridx.toNat = .next d) :
    step s = .next (closeEdge (consumed d (openEdge s))) := by
  rw [step_of_decode hp hr, decodeStep_of_read (s := openEdge s) hne hd, closed_next]

theorem step_of_endSeq {s : State} (hp : s.phase = .decode) (hr : s.now.rst = false) (hend : s.ridx = s.obsLen) :
    step s = .next (closeEdge (setPhase .validate (openEdge s))) := by
  rw [step_of_decode hp hr, decodeStep_of_end (s := openEdge s) hend, closed_next]

/-- Settles O43: an observation leaves `consumed`, whose decoder registers are the function's, and END moves the phase alone. -/
theorem decodeStepIsTheFoldFunction : Obligations.DecodeStepIsTheFoldFunction := fun _ hp hr =>
  ⟨fun _ hne hd => ⟨_, step_of_observation hp hr hne hd, rfl, rfl⟩, fun hend => ⟨_, step_of_endSeq hp hr hend, rfl⟩⟩

/-! ### The whole sequence (R130, R53) -/

/-- R52, R53: under the invariant the read of an entry below `obs_len` answers that duration of the sequence. -/
theorem memRead_eq_duration {s : State} (h : Inv s) {i : Nat} (hi : i < s.obsLen.toNat) :
    ∃ d, memRead s i = .next d ∧ (durations s)[i]? = some d := by
  obtain ⟨-, haddr, -⟩ := h.buffer
  obtain ⟨d, hread, hd⟩ := memRead_of_recorded h hi
  obtain ⟨v, hv, -, hseq⟩ := Memory.read_of_range s.obs s.obsLen.toNat i haddr hi
  exact ⟨d, hread, hseq.trans (hv.symm.trans hd)⟩

theorem length_durations {s : State} (h : Inv s) : (durations s).length = s.obsLen.toNat := by
  obtain ⟨-, haddr, -⟩ := h.buffer
  simpa [durations] using congrArg List.length haddr

/-- From any place of the sequence: the `n` observations left are consumed in `n` edges, and the registers are the fold over
them. -/
theorem decoding_run {s : State} {n : Nat} (h : Inv s) (hp : s.phase = .decode) (hn : s.ridx.toNat + n = s.obsLen.toNat)
    (hreset : noResetFor n s) :
    ∃ t, runEdges n s = .next t ∧ t.phase = .decode ∧ t.ridx = t.obsLen ∧
      decoderState t = decoderFold (decoderState s) s.ridx.toNat ((durations s).drop s.ridx.toNat) := by
  induction n generalizing s with
  | zero =>
    refine ⟨s, runEdges_zero s, hp, BitVec.eq_of_toNat_eq hn, ?_⟩
    rw [List.drop_of_length_le (i := s.ridx.toNat) ((length_durations h).trans_le hn.ge), decoderFold]
  | succ n ih =>
    obtain ⟨d, hread, hd⟩ := memRead_eq_duration h (i := s.ridx.toNat) (by omega)
    have hne : s.ridx ≠ s.obsLen := fun e => by rw [e] at hn; omega
    have hstep := step_of_observation hp (rst_of_noResetFor hreset) hne hread
    have hmax : s.obsLen.toNat < 128 := s.obsLen.isLt
    have hsucc : (s.ridx + 1).toNat = s.ridx.toNat + 1 := toNat_succ_index _ (by omega)
    obtain ⟨t, hrun, hpt, hend, hfold⟩ := ih (stepKeepsTheInvariant _ _ h hstep) hp
      (show (s.ridx + 1).toNat + n = s.obsLen.toNat by omega) (noResetFor_of_step hreset hstep)
    refine ⟨t, (runEdges_succ n hstep).trans hrun, hpt, hend, ?_⟩
    obtain ⟨hlt, hget⟩ := List.getElem?_eq_some_iff.1 hd
    rw [List.drop_eq_getElem_cons hlt, hget, decoderFold, ← hsucc]
    exact hfold

/-- Settles O44: the run from the first observation. -/
theorem decodingIsAFoldOverTheSequence : Obligations.DecodingIsAFoldOverTheSequence := by
  intro s h hp hzero hinitial hreset
  have hridx : s.ridx.toNat = 0 := by rw [hzero]; rfl
  obtain ⟨t, hrun, hpt, hend, hfold⟩ := decoding_run h hp (by rw [hridx, Nat.zero_add]) hreset
  rw [hinitial, hridx, List.drop_zero] at hfold
  exact ⟨t, hrun, hpt, hend, hfold⟩

end Sys2Proof.Machine
end

section
/-! The closed form of decoding (R137), and that it rests on the order of the durations alone (R138). -/

namespace Sys2Proof.Machine

/-! ### The bits of a payload (R54, R56) -/

/-- Bit `m` stands in byte `m div 8`, with the bits accepted after it below. -/
theorem getLsbD_of_holdsBits {b : Nat → Bool} {n m : Nat} {p : Payload} {v : Byte} (h : HoldsBits b n p) (hm : m < n)
    (hv : p.bytes[m / 8]? = some v) : v.getLsbD (bitsInByte n (m / 8) - 1 - m % 8) = b m := by
  have hplace : m % 8 < bitsInByte n (m / 8) := by unfold bitsInByte; omega
  rw [h _ v hv, decide_eq_true (by omega), Bool.true_and]
  congr 1
  omega

/-- Above the bits a byte has received are zeros. -/
theorem toNat_lt_of_holdsBits {b : Nat → Bool} {n k : Nat} {p : Payload} {v : Byte} (h : HoldsBits b n p)
    (hv : p.bytes[k]? = some v) : v.toNat < 2 ^ bitsInByte n k :=
  Nat.lt_pow_two_of_testBit _ fun j hj => by
    rw [← BitVec.getLsbD, h k v hv, decide_eq_false (Nat.not_lt.2 hj), Bool.false_and]

/-- The accepted bits determine the payload, however many they are. -/
theorem payload_eq_of_holdsBits {b c : Nat → Bool} {n : Nat} {p q : Payload} (hp : HoldsBits b n p) (hq : HoldsBits c n q)
    (hbits : ∀ m < n, b m = c m) : p = q := by
  refine payload_eq_of_bytes (List.ext_getElem rfl fun k hk hk' => BitVec.eq_of_getLsbD_eq fun j _ => ?_)
  rw [hp k _ (List.getElem?_eq_getElem hk), hq k _ (List.getElem?_eq_getElem hk')]
  by_cases hj : j < bitsInByte n k
  · rw [hbits _ (by unfold bitsInByte at hj ⊢; omega)]
  · rw [decide_eq_false hj, Bool.false_and, Bool.false_and]

/-! ### The closed form (R137) -/

theorem decoderFold_bitCount (xs : List Byte) :
    (decoderFold DecoderState.initial 0 xs).bitCount.toNat = min 40 ((xs.length - 2) / 2) :=
  (decodesPrefix_decoderFold xs).decoded.1

/-- Settles O45: the registers after the whole prefix, the bits by their places. -/
theorem decoderClosedForm : Obligations.DecoderClosedForm := by
  intro xs d
  obtain ⟨-, href, hbits⟩ := decodesPrefix_decoderFold xs
  have hcount : d.bitCount.toNat = min 40 ((xs.length - 2) / 2) := decoderFold_bitCount xs
  refine ⟨hcount, ?_, fun k v hv => toNat_lt_of_holdsBits hbits hv, fun hnil => by subst hnil; rfl,
    fun hne => href (List.length_pos_iff.2 hne), decoderFold_maxHigh xs⟩
  rintro m k j x y hm rfl rfl hx hy
  have hbyte : m / 8 < d.payload.bytes.length := show m / 8 < 5 by omega
  refine ⟨_, List.getElem?_eq_getElem hbyte, ?_⟩
  rw [getLsbD_of_holdsBits hbits hm (List.getElem?_eq_getElem hbyte), sequenceBit_eq hx hy]

/-! ### Only the order matters (R138) -/

/-- The map keeps the order of the durations in the sequence. -/
def KeepsOrder (f : Byte → Byte) (xs : List Byte) : Prop := ∀ a ∈ xs, ∀ b ∈ xs, (a ≤ b ↔ f a ≤ f b)

/-- A bit is one comparison of two of the durations. -/
theorem sequenceBit_map {f : Byte → Byte} {xs : List Byte} (hf : KeepsOrder f xs) {m : Nat} (hm : 2 * m + 3 < xs.length) :
    sequenceBit (xs.map f) m = sequenceBit xs m := by
  have hx : xs[2 * m + 2]? = some _ := List.getElem?_eq_getElem (by omega)
  have hy : xs[2 * m + 3]? = some _ := List.getElem?_eq_getElem hm
  rw [sequenceBit_eq hx hy, sequenceBit_eq (by rw [List.getElem?_map, hx]; rfl) (by rw [List.getElem?_map, hy]; rfl)]
  exact decide_eq_decide.2 (hf _ (List.mem_of_getElem? hx) _ (List.mem_of_getElem? hy)).symm

/-- As many bits are accepted, each of them the same. -/
theorem decoderFold_map {f : Byte → Byte} {xs : List Byte} (hf : KeepsOrder f xs) :
    (decoderFold DecoderState.initial 0 (xs.map f)).payload = (decoderFold DecoderState.initial 0 xs).payload ∧
      (decoderFold DecoderState.initial 0 (xs.map f)).bitCount = (decoderFold DecoderState.initial 0 xs).bitCount := by
  have hcount :
      (decoderFold DecoderState.initial 0 (xs.map f)).bitCount = (decoderFold DecoderState.initial 0 xs).bitCount :=
    BitVec.eq_of_toNat_eq (by rw [decoderFold_bitCount, decoderFold_bitCount, List.length_map])
  refine ⟨payload_eq_of_holdsBits (hcount ▸ (decodesPrefix_decoderFold (xs.map f)).bits)
    (decodesPrefix_decoderFold xs).bits fun m hm => sequenceBit_map hf ?_, hcount⟩
  rw [decoderFold_bitCount] at hm
  omega

/-- A positive factor and a constant keep the order where no result leaves the width. -/
theorem keepsOrder_affine {factor constant : Nat} {xs : List Byte} (hfactor : 0 < factor)
    (hbound : ∀ a ∈ xs, factor * a.toNat + constant ≤ 254) :
    KeepsOrder (fun a => BitVec.ofNat 8 (factor * a.toNat + constant)) xs := by
  intro a ha b hb
  have hvalue (c : Byte) (hc : c ∈ xs) :
      (BitVec.ofNat 8 (factor * c.toNat + constant)).toNat = factor * c.toNat + constant := by
    rw [BitVec.toNat_ofNat, Nat.mod_eq_of_lt (Nat.lt_of_le_of_lt (hbound c hc) (by decide))]
  rw [BitVec.le_def, BitVec.le_def, hvalue a ha, hvalue b hb, Nat.add_le_add_iff_right, Nat.mul_le_mul_left_iff hfactor]

/-- Settles O48: the factor and the constant are one such map. -/
theorem onlyTheOrderOfDurationsMatters : Obligations.OnlyTheOrderOfDurationsMatters :=
  ⟨fun _ _ hf => decoderFold_map hf, fun _ _ _ hfactor hbound => decoderFold_map (keepsOrder_affine hfactor hbound)⟩

end Sys2Proof.Machine
end

section
/-! VALIDATE, CONVERT and the reading (42_validate_convert.md). -/

namespace Sys2Proof.Machine

/-- R77, R150: the dispatch of VALIDATE. -/
theorem exec_validate (s : State) : exec .validate s = execValidate s := rfl

/-- R77, R160: the dispatch of CONVERT. -/
theorem exec_convert (s : State) : exec .convert s = execConvert s := rfl

/-! ### The checksum and the status (R151 to R154) -/

/-- R153: the match as one comparison of two bytes. -/
theorem csumOkOf_eq_decide (p : Payload) : csumOkOf p = decide (checksumOf p = p.checksum) := beq_eq_decide ..

/-- R154: the completeness test comes first. -/
theorem statusOf_eq_ite (bitCount : BitVec 6) (ok : Bool) :
    statusOf (completeOf bitCount) ok =
      if bitCount.toNat < 40 then .incompleteFrame else if ok = true then .success else .checksumMismatch := by
  by_cases h : bitCount.toNat < 40
  · rw [if_pos h, (statusOf_iff _ _).2.1]
    exact decide_eq_false (Nat.not_le.2 h)
  · have hcomplete : completeOf bitCount = true := decide_eq_true (Nat.not_lt.1 h)
    rw [if_neg h, hcomplete]
    cases ok <;> rfl

/-- R151: truncation of the natural sum is a sum of bytes. -/
theorem checksumOf_eq_add (p : Payload) :
    checksumOf p = p.humidityHigh + p.humidityLow + p.temperatureHigh + p.temperatureLow := by
  simp only [checksumOf, BitVec.ofNat_add, BitVec.ofNat_toNat, BitVec.setWidth_eq]

/-- Settles O51: the model's flags and status, written as the rules' conditions. -/
theorem validateComputesTheOutcome : Obligations.ValidateComputesTheOutcome := by
  intro s c
  have hok : csumOkOf s.payload = decide (c = s.payload.checksum) := csumOkOf_eq_decide _
  rw [exec_validate, execValidate, statusOf_eq_ite, hok, Bool.decide_and]
  simp only [decide_eq_true_eq]
  rfl

/-- Settles O52: the fifth byte is no argument of the sum. -/
theorem checksumIsTheTruncatedSum : Obligations.ChecksumIsTheTruncatedSum := by
  intro s t h
  cases h
  refine ⟨BitVec.toNat_ofNat .., checksumOf_eq_add _, fun b u hu => ?_⟩
  cases hu
  rfl

/-! ### The reading (R155 to R158) -/

/-- A byte below a word: the word times 256 plus the byte. -/
theorem toNat_append_byte {w : Nat} (x : BitVec w) (v : Byte) : (x ++ v).toNat = x.toNat * 256 + v.toNat := by
  rw [BitVec.toNat_append, ← Nat.shiftLeft_add_eq_or_of_lt v.isLt, Nat.shiftLeft_eq]

/-- R156: the sign bit is set from 128 on. -/
theorem temperatureNegative_eq_decide (p : Payload) :
    temperatureNegative p = decide (128 ≤ p.temperatureHigh.toNat) :=
  p.temperatureHigh.msb_eq_getLsbD_last.symm.trans (BitVec.msb_eq_decide _)

/-- R155: the two humidity bytes as one number, the first above the second. -/
theorem humidityX10_toNat (p : Payload) : (humidityX10 p).toNat = p.humidityHigh.toNat * 256 + p.humidityLow.toNat :=
  toNat_append_byte ..

/-- R156: the sign bit is no part of the magnitude. -/
theorem temperatureMagnitudeX10_toNat (p : Payload) :
    (temperatureMagnitudeX10 p).toNat = p.temperatureHigh.toNat % 128 * 256 + p.temperatureLow.toNat := by
  rw [temperatureMagnitudeX10, toNat_append_byte, BitVec.extractLsb'_toNat, Nat.shiftRight_zero]

/-- Settles O53: the two words are the model's own concatenations, taken as numbers. -/
theorem convertComputesTheReading : Obligations.ConvertComputesTheReading := fun s =>
  ⟨humidityX10 s.payload, temperatureMagnitudeX10 s.payload, humidityX10_toNat _, temperatureMagnitudeX10_toNat _, by
    rw [exec_convert, execConvert, temperatureNegative_eq_decide]⟩

/-- R157: the sign does not change the magnitude. -/
theorem natAbs_tempX10 (r : Reading) : r.tempX10.natAbs = r.tempMagX10.toNat := by
  unfold Reading.tempX10
  split
  · rw [Int.natAbs_neg, Int.natAbs_natCast]
  · exact Int.natAbs_natCast _

/-- R158: the quotient is exact. -/
theorem div_divisor_mul_ten (x : Rat) : x / (Config.divisor : Rat) * 10 = x :=
  have hten : (Config.divisor : Rat) = 10 := rfl
  hten ▸ div_mul_cancel₀ x (by decide)

/-- Settles O54: the bound is the width of the magnitude. -/
theorem readingIsExactAndBounded : Obligations.ReadingIsExactAndBounded := by
  refine ⟨fun r => ?_, fun h => ⟨fun e => Bool.noConfusion (congrArg Reading.tempNeg e), rfl, rfl⟩⟩
  have habs : r.tempX10.natAbs = r.tempMagX10.toNat := natAbs_tempX10 r
  have hwidth : r.tempMagX10.toNat < 32768 := r.tempMagX10.isLt
  exact ⟨by omega, by omega, fun hneg => if_pos hneg, fun hpos => if_neg (ne_true_of_eq_false hpos),
    div_divisor_mul_ten _, div_divisor_mul_ten _⟩

/-! ### What the outcome reads (R162) -/

/-- Settles O55: what each writes is a function of `payload` and `bit_count`. -/
theorem outcomeReadsOnlyPayloadAndBitCount : Obligations.OutcomeReadsOnlyPayloadAndBitCount := by
  intro s r t u hpayload hcount
  refine ⟨fun ht hu => ?_, fun ht hu => ?_⟩
  · cases ht
    cases hu
    simp only [hpayload, hcount, and_self]
  · cases ht
    cases hu
    simp only [hpayload, and_self]

end Sys2Proof.Machine
end

section
/-! The control (43_control.md): the step's choice (R170), the commands RESET and START (R171 to R173), the phases in which
nothing happens (R174), the transition table (R175), and how many edges DECODE is from DONE (R177). -/

namespace Sys2Proof.Machine

/-! ### The choice of one edge (R170) -/

theorem acceptsStart_iff {p : Phase} : acceptsStart p = true ↔ p = .idle ∨ p = .done := by
  cases p <;> simp [acceptsStart]

/-- R173: outside IDLE and DONE an edge without RESET has no accepted command. -/
theorem noCommand_of_phase {s : State} (hr : s.now.rst = false) (hidle : s.phase ≠ .idle) (hdone : s.phase ≠ .done) :
    noCommand s :=
  ⟨hr, fun _ => Bool.eq_false_iff.2 fun ha => (acceptsStart_iff.1 ha).elim hidle hdone⟩

/-- Settles O8: RESET, an accepted START and no command are the three cases of the choice. -/
theorem stepIsResetStartOrThePhaseOperation : Obligations.StepIsResetStartOrThePhaseOperation := by
  intro s
  cases hr : s.now.rst with
  | true => rw [step_of_rst hr, if_pos rfl]; rfl
  | false =>
    rw [if_neg Bool.false_ne_true]
    by_cases hc : s.now.start = true ∧ (s.phase = .idle ∨ s.phase = .done)
    · obtain ⟨hs, ha⟩ := hc
      rw [step_of_start hr hs (acceptsStart_iff.2 ha), if_pos ⟨hs, ha⟩]
      rfl
    · have hn : noCommand s := ⟨hr, fun hs => Bool.eq_false_iff.2 fun ha => hc ⟨hs, acceptsStart_iff.1 ha⟩⟩
      rw [step_of_noCommand hn, if_neg hc]

/-- Settles O6: the one branch of the step that performs an operation. -/
theorem stepRunsTheDecodedInstruction : Obligations.StepRunsTheDecodedInstruction := by
  intro s f w i hf hd
  simp only [step, hf, hd]

/-! ### The transition table (R175) -/

theorem nextPhase_of_rst {s : State} (hr : s.now.rst = true) : nextPhase s = .idle := by
  rw [nextPhase, if_pos hr]

theorem nextPhase_of_start {s : State} (hr : s.now.rst = false) (hs : s.now.start = true)
    (ha : acceptsStart s.phase = true) : nextPhase s = .wDirOut := by
  simp [nextPhase, hr, hs, ha]

/-- R114: the rows of SAMPLE at a tick on a level, read as conditions on that level. -/
theorem nextPhase_of_level {s : State} {l : Level} (hn : noCommand s) (hp : s.phase = .sample) (ht : s.now.tick = true)
    (hl : s.now.lineIn = levelRaw l) :
    nextPhase s =
      if s.heldValid = false then .sample
      else if l = s.held then (if s.cnt.toNat + 1 = s.cfg.ceil then .decode else .sample)
      else if s.widx.toNat + 1 = s.cfg.maxObs then .decode else .sample := by
  obtain ⟨hr, -⟩ := hn
  have hlevel : ¬(levelRaw l ≠ 0 ∧ levelRaw l ≠ 1) := by cases l <;> decide
  simp [nextPhase, hr, hp, ht, hl, acceptsStart, if_neg hlevel, levelRaw_injective]

/-- A tick ends where the table's rows of SAMPLE say. -/
theorem sampleTick_phase {s t : State} (hn : noCommand s) (hp : s.phase = .sample) (ht : s.now.tick = true)
    (h : sampleTick s = .next t) : t.phase = nextPhase s := by
  rcases sampleTick_cases s with ⟨h0, h1, e⟩ | ⟨l, hl, hcases⟩
  · cases e.symm.trans h
    obtain ⟨hr, -⟩ := hn
    rw [lineRead] at h0 h1
    simp [nextPhase, hr, hp, ht, acceptsStart, h0, h1]
  rw [nextPhase_of_level hn hp ht hl]
  rcases hcases with ⟨hv, e⟩ | ⟨hv, hh, hc, e⟩ | ⟨hv, hh, hc, e⟩ | ⟨hv, hh, hx, e⟩ | ⟨hv, hh, hx, -, e⟩ | ⟨-, -, -, e⟩ <;>
    cases e.symm.trans h
  · simp [hv, hp]
  · simp [hv, hh, hc]
  · simp [hv, hh, hc, hp]
  · simp [hv, hh, hx]
  · simp [hv, hh, hx, hp]

/-- The rows of DECODE (R130). -/
theorem decodeStep_phase {s t : State} (hp : s.phase = .decode) (h : decodeStep s = .next t) :
    t.phase = if s.ridx = s.obsLen then .validate else .decode := by
  rcases decodeStep_cases s with ⟨hend, e⟩ | ⟨hne, d, -, e⟩ | ⟨-, r, -, e⟩ | ⟨-, r, -, e⟩ <;> cases e.symm.trans h
  · rw [if_pos hend]
  · rw [if_neg hne]
    exact hp

/-- The rows of a hold (R102, R104, R106). -/
theorem holdThen_phase {p : Phase} {s t : State} (h : holdThen p s = .next t) :
    t.phase = if s.now.dlyDone then p else s.phase := by
  cases h
  split <;> rfl

/-- The rows without an accepted command: the phase's operation ends where the table says. -/
theorem phaseOperation_phase {s t : State} (hn : noCommand s) (h : phaseOperation s = .next t) :
    t.phase = nextPhase s := by
  have hr : ¬s.now.rst = true := Bool.eq_false_iff.1 hn.1
  have hc : ¬(s.now.start && acceptsStart s.phase) = true := fun hc => by
    obtain ⟨hs, ha⟩ := Bool.and_eq_true_iff.1 hc
    exact Bool.eq_false_iff.1 (hn.2 hs) ha
  unfold phaseOperation at h
  cases hp : s.phase <;> simp only [hp] at h
  case sample =>
    cases ht : s.now.tick <;> simp only [ht] at h
    · cases h
      simp [nextPhase, hr, hp, ht, acceptsStart]
    · exact sampleTick_phase hn hp ht h
  all_goals rw [nextPhase, if_neg hr, if_neg hc, hp]
  case decode => exact decodeStep_phase hp h
  case wHighHold | wLowHold | wRelHold => rw [holdThen_phase h, hp]
  case idle | done | fatal => cases h; exact hp
  all_goals cases h; rfl

/-- Settles O13: the rows of RESET, of an accepted START, and of the phases. -/
theorem phaseFollowsTheTransitionTable : Obligations.PhaseFollowsTheTransitionTable := by
  intro s t h
  rcases step_cases h with ⟨hr, rfl⟩ | ⟨hr, hs, ha, rfl⟩ | ⟨hn, u, hu, rfl⟩
  · exact (nextPhase_of_rst hr).symm
  · exact (nextPhase_of_start hr hs ha).symm
  · have hphase : u.phase = nextPhase (openEdge s) := phaseOperation_phase hn hu
    exact hphase

/-! ### RESET and START (R171 to R173) -/

/-- Settles O15: the reset registers are R45's column; from FATAL the table leads nowhere else without RESET. -/
theorem resetLoadsTheResetValues : Obligations.ResetLoadsTheResetValues := by
  refine ⟨fun s => rfl, fun s hr => step_of_rst hr, fun s t a h => ?_, fun s t hp h hne => ?_⟩
  · cases h
    rfl
  · have hphase := phaseFollowsTheTransitionTable s t h
    by_contra hr
    exact hne (by simp [hphase, nextPhase, hp, hr, acceptsStart])

/-- Settles O16: the start registers are those of RESET but for the phase and the line. -/
theorem startLoadsTheStartValues : Obligations.StartLoadsTheStartValues := by
  refine ⟨fun s => rfl, fun s t a h => ?_, fun s hr hs hp => step_of_start hr hs (acceptsStart_iff.2 hp)⟩
  cases h
  rfl

/-- The state with START withdrawn from this edge's inputs. -/
abbrev withdrawStart (s : State) : State := { s with pending := { s.now with start := false } :: s.pending.tail }

theorem closed_recordObservation_withdrawStart (l : Level) (s : State) :
    closed (recordObservation l (withdrawStart s)) = closed (recordObservation l s) := by
  rcases recordObservation_cases l s with ⟨hge, e⟩ | ⟨hlt, e⟩ <;> rw [e]
  · rw [recordObservation_of_ge (s := withdrawStart s) hge]
  · rw [recordObservation_of_lt (s := withdrawStart s) hlt]
    rfl

/-- R114: a tick does not read `start`. -/
theorem closed_sampleTick_withdrawStart (s : State) :
    closed (sampleTick (withdrawStart s)) = closed (sampleTick s) := by
  rcases sampleTick_cases s with ⟨h0, h1, e⟩ | ⟨l, hl, -⟩
  · rw [sampleTick_of_invalid (s := withdrawStart s) h0 h1, e]
    rfl
  · rw [sampleTick_of_level (s := withdrawStart s) hl, sampleTick_of_level hl]
    split_ifs
    any_goals rfl
    · exact closed_recordObservation_withdrawStart l { s with capHit := true, phase := .decode }
    · exact closed_recordObservation_withdrawStart l s

/-- R130: the decoder does not read `start`. -/
theorem closed_decodeStep_withdrawStart (s : State) :
    closed (decodeStep (withdrawStart s)) = closed (decodeStep s) := by
  rcases decodeStep_cases s with ⟨hend, e⟩ | ⟨hne, d, hd, e⟩ | ⟨hne, r, hr, e⟩ | ⟨hne, r, hr, e⟩ <;> rw [e]
  · rw [decodeStep_of_end (s := withdrawStart s) hend]; rfl
  · rw [decodeStep_of_read (s := withdrawStart s) hne hd]; rfl
  · rw [decodeStep_of_fault (s := withdrawStart s) hne hr]
  · rw [decodeStep_of_refused (s := withdrawStart s) hne hr]

/-- R102, R104, R106: a hold does not read `start`. -/
theorem closed_holdThen_withdrawStart (p : Phase) (s : State) :
    closed (holdThen p (withdrawStart s)) = closed (holdThen p s) := by
  show closed (.next (if s.now.dlyDone = true then _ else _)) = closed (.next (if s.now.dlyDone = true then _ else _))
  split <;> rfl

/-- R173: no phase's operation reads `start`. -/
theorem closed_phaseOperation_withdrawStart (s : State) :
    closed (phaseOperation (withdrawStart s)) = closed (phaseOperation s) := by
  unfold phaseOperation
  cases s.phase <;> dsimp only
  case sample =>
    show closed (if s.now.tick = true then _ else _) = closed (if s.now.tick = true then _ else _)
    split
    · exact closed_sampleTick_withdrawStart s
    · rfl
  case decode => exact closed_decodeStep_withdrawStart s
  case wHighHold | wLowHold | wRelHold => exact closed_holdThen_withdrawStart _ s
  all_goals rfl

/-- Settles O17: with and without START the step is the phase's operation, which is the one the phase presents. -/
theorem ignoredStartLeavesThePhaseOperation : Obligations.IgnoredStartLeavesThePhaseOperation := by
  refine ⟨fun s hr hidle hdone => ?_, fun s hr _ hidle hdone => ?_, fun s f w i hf hd => ?_, fun s h => ?_⟩
  · have hn : noCommand (withdrawStart s) := noCommand_of_phase hr hidle hdone
    rw [step_of_noCommand hn, step_of_noCommand (noCommand_of_phase hr hidle hdone)]
    exact closed_phaseOperation_withdrawStart (openEdge s)
  · exact step_of_noCommand (noCommand_of_phase hr hidle hdone)
  · show phaseOperation s = exec i s
    rcases fetchPhase_cases s with ⟨e, -⟩ | ⟨r, e, -⟩ | ⟨r, e, -⟩ | ⟨f', w', i', e, hd', -, ho⟩ <;> cases hf.symm.trans e
    cases hd.symm.trans hd'
    exact ho
  · exact phaseOperation_answers h

/-! ### Nothing without a cause (R174) -/

theorem holdThen_of_waiting {p : Phase} {s : State} (h : s.now.dlyDone = false) : holdThen p s = .next s := by
  rw [holdThen, if_neg (Bool.eq_false_iff.1 h)]

/-- R174: the phases in which the phase's operation changes nothing. -/
theorem phaseOperation_of_noCause {s : State}
    (h : s.phase = .idle ∨ s.phase = .done ∨ s.phase = .fatal ∨
      ((s.phase = .wHighHold ∨ s.phase = .wLowHold ∨ s.phase = .wRelHold) ∧ s.now.dlyDone = false) ∨
      (s.phase = .sample ∧ s.now.tick = false)) : phaseOperation s = .next s := by
  rcases h with hp | hp | hp | ⟨hp | hp | hp, hd⟩ | ⟨hp, ht⟩
  · exact phaseOperation_idle hp
  · exact phaseOperation_done hp
  · exact phaseOperation_fatal hp
  · exact (phaseOperation_wHighHold hp).trans (holdThen_of_waiting hd)
  · exact (phaseOperation_wLowHold hp).trans (holdThen_of_waiting hd)
  · exact (phaseOperation_wRelHold hp).trans (holdThen_of_waiting hd)
  · exact (phaseOperation_sample hp).trans (if_neg (Bool.eq_false_iff.1 ht))

/-- Settles O18: the edge alone passes, which writes no register. -/
theorem nothingHappensWithoutACause : Obligations.NothingHappensWithoutACause := by
  refine ⟨fun s => ⟨rfl, rfl, rfl⟩, fun s hn hcases => ⟨closeEdge (openEdge s), ?_, rfl⟩⟩
  rw [step_of_noCommand hn, phaseOperation_of_noCause (s := openEdge s) hcases, closed_next]

/-! ### From DECODE to DONE (R177) -/

/-- How many edges without RESET an exchange after SAMPLE is from DONE: in DECODE an edge for each observation left, one for END,
one for VALIDATE and one for CONVERT. -/
def edgesToDone (s : State) : Nat :=
  match s.phase with
  | .decode => s.obsLen.toNat - s.ridx.toNat + 3
  | .validate => 2
  | .convert => 1
  | _ => 0

theorem edgesToDone_decode {s : State} (hp : s.phase = .decode) :
    edgesToDone s = s.obsLen.toNat - s.ridx.toNat + 3 := by
  rw [edgesToDone, hp]

theorem edgesToDone_eq_zero_iff {s : State} (h : afterSample s.phase = true) : edgesToDone s = 0 ↔ s.phase = .done := by
  unfold edgesToDone
  cases hp : s.phase <;> simp [hp] at h ⊢

theorem step_of_validate {s : State} (hp : s.phase = .validate) (hr : s.now.rst = false) :
    step s = closed (execValidate (openEdge s)) := by
  rw [step_of_noCommand (noCommand_of_phase hr (by simp [hp]) (by simp [hp])), phaseOperation_validate (s := openEdge s) hp]

theorem step_of_convert {s : State} (hp : s.phase = .convert) (hr : s.now.rst = false) :
    step s = closed (execConvert (openEdge s)) := by
  rw [step_of_noCommand (noCommand_of_phase hr (by simp [hp]) (by simp [hp])), phaseOperation_convert (s := openEdge s) hp]

/-- R130: in DECODE an edge consumes an observation, or ends the sequence when none is left. -/
theorem step_edgesToDone_of_decode {s : State} (h : Inv s) (hp : s.phase = .decode) (hr : s.now.rst = false) :
    ∃ t, step s = .next t ∧ afterSample t.phase = true ∧ edgesToDone t + 1 = edgesToDone s := by
  rw [edgesToDone_decode hp]
  by_cases hend : s.ridx = s.obsLen
  · exact ⟨_, step_of_endSeq hp hr hend, rfl, by rw [hend, Nat.sub_self]; rfl⟩
  · obtain ⟨hle, -⟩ := h.decoder
    have hlt : s.ridx.toNat < s.obsLen.toNat := lt_of_le_of_ne hle fun e => hend (BitVec.eq_of_toNat_eq e)
    have hmax : s.obsLen.toNat < 128 := s.obsLen.isLt
    obtain ⟨d, hread, -⟩ := memRead_of_recorded h hlt
    have hp' : (closeEdge (consumed d (openEdge s))).phase = .decode := hp
    refine ⟨_, step_of_observation hp hr hend hread, by rw [hp'], ?_⟩
    have hridx : (s.ridx + 1).toNat = s.ridx.toNat + 1 := toNat_succ_index _ (by omega)
    rw [edgesToDone_decode hp']
    show s.obsLen.toNat - (s.ridx + 1).toNat + 3 + 1 = _
    omega

/-- Every edge before DONE brings the exchange exactly one edge nearer. -/
theorem step_edgesToDone {s : State} (h : Inv s) (ha : afterSample s.phase = true) (hne : s.phase ≠ .done)
    (hr : s.now.rst = false) :
    ∃ t, step s = .next t ∧ afterSample t.phase = true ∧ edgesToDone t + 1 = edgesToDone s := by
  cases hp : s.phase <;> simp [hp] at ha hne
  case decode => exact step_edgesToDone_of_decode h hp hr
  case validate => exact ⟨_, step_of_validate hp hr, rfl, by rw [edgesToDone, edgesToDone, hp]; rfl⟩
  case convert => exact ⟨_, step_of_convert hp hr, rfl, by rw [edgesToDone, edgesToDone, hp]; rfl⟩

/-- By induction on the edges taken: after `k` of them, none beyond DONE, the measure has fallen by `k`. -/
theorem runEdges_edgesToDone {s : State} {k m : Nat} (h : Inv s) (ha : afterSample s.phase = true)
    (hk : edgesToDone s = k + m) (hreset : noResetFor k s) :
    ∃ t, runEdges k s = .next t ∧ Inv t ∧ afterSample t.phase = true ∧ edgesToDone t = m := by
  induction k generalizing s with
  | zero => exact ⟨s, runEdges_zero s, h, ha, by rw [hk, Nat.zero_add]⟩
  | succ k ih =>
    have hne : s.phase ≠ .done := fun hp => by
      have hzero := (edgesToDone_eq_zero_iff ha).2 hp
      omega
    obtain ⟨u, hstep, hau, hu⟩ := step_edgesToDone h ha hne (rst_of_noResetFor hreset)
    obtain ⟨t, hrun, ht⟩ := ih (stepKeepsTheInvariant s u h hstep) hau (by omega) (noResetFor_of_step hreset hstep)
    exact ⟨t, (runEdges_succ k hstep).trans hrun, ht⟩

/-- Settles O49: the measure is 0 in DONE alone. -/
theorem decodeReachesDoneInObsLenPlusThree : Obligations.DecodeReachesDoneInObsLenPlusThree := by
  intro s h hp hreset
  have ha : afterSample s.phase = true := by rw [hp]
  rw [← edgesToDone_decode hp] at hreset ⊢
  refine ⟨?_, fun k t hk hrun hdone => ?_⟩
  · obtain ⟨t, hrun, hinv, hat, hzero⟩ := runEdges_edgesToDone (m := 0) h ha rfl hreset
    have hdone : t.phase = .done := (edgesToDone_eq_zero_iff hat).1 hzero
    obtain ⟨hflag, -⟩ := hinv.flags
    exact ⟨t, hrun, hdone, hflag.2 hdone⟩
  · obtain ⟨u, hrun', -, hau, hleft⟩ := runEdges_edgesToDone (k := k) (m := edgesToDone s - k) h ha (by omega)
      fun j hj => hreset j (hj.trans hk)
    cases hrun.symm.trans hrun'
    have hzero := (edgesToDone_eq_zero_iff hau).2 hdone
    omega

end Sys2Proof.Machine
end

section
/-! The fatal stop (60_exceptions.md): its precise entry (R196), its only cause (R192), its only way out (R197), and which of
several simultaneous conditions wins (R200). -/

namespace Sys2Proof.Machine

/-- R196: at a tick in SAMPLE on a sample that is no level the step is the fatal stop. -/
theorem step_of_invalid {s : State} (hp : s.phase = .sample) (hr : s.now.rst = false) (ht : s.now.tick = true)
    (h0 : s.now.lineIn ≠ 0) (h1 : s.now.lineIn ≠ 1) :
    step s = .next (closeEdge (raiseFatal s.now.lineIn (openEdge s))) := by
  rw [step_of_tick hp hr ht, sampleTick_of_invalid (s := openEdge s) h0 h1, closed_next]
  rfl

/-- Settles O20: `raise Fatal` names the four registers, and the tick comes to it. -/
theorem fatalStopIsPrecise : Obligations.FatalStopIsPrecise :=
  ⟨fun _ => rfl, fun _ hr hp ht h0 h1 => step_of_invalid hp hr ht h0 h1⟩

/-- R175: the rows of the transition table that lead to FATAL. -/
theorem nextPhase_eq_fatal {s : State} (h : nextPhase s = .fatal) (hne : s.phase ≠ .fatal) :
    s.now.rst = false ∧ s.phase = .sample ∧ s.now.tick = true ∧ s.now.lineIn ≠ 0 ∧ s.now.lineIn ≠ 1 := by
  have hr : s.now.rst = false := Bool.eq_false_iff.2 fun hr => nomatch (nextPhase_of_rst hr).symm.trans h
  have hc : ¬(s.now.start && acceptsStart s.phase) = true := fun hc => by simp [nextPhase, hr, hc] at h
  rw [nextPhase, if_neg (Bool.eq_false_iff.1 hr), if_neg hc] at h
  cases hp : s.phase <;> simp only [hp] at h hne
  case sample =>
    split_ifs at h with ht hi
    exact ⟨hr, rfl, Bool.eq_true_of_not_eq_false ht, hi⟩
  case fatal => exact absurd rfl hne
  case wHighHold | wLowHold | wRelHold | decode => split_ifs at h
  all_goals cases h

/-- Settles O21: the transition table leads to FATAL from SAMPLE alone, and there the step is the fatal stop. -/
theorem onlyAnInvalidSampleRaisesFatal : Obligations.OnlyAnInvalidSampleRaisesFatal := by
  intro s t h hne hfatal
  have hnext : nextPhase s = .fatal := (phaseFollowsTheTransitionTable s t h).symm.trans hfatal
  obtain ⟨hr, hp, ht, h0, h1⟩ := nextPhase_eq_fatal hnext hne
  have hstep := step_of_invalid hp hr ht h0 h1
  refine ⟨hr, hp, ht, h0, h1, hstep, ?_⟩
  cases hstep.symm.trans h
  rfl

/-- R197, R174: in FATAL without RESET only the edge passes, START ignored. -/
theorem step_of_fatal {s : State} (hp : s.phase = .fatal) (hr : s.now.rst = false) :
    step s = .next (closeEdge (openEdge s)) := by
  rw [step_of_noCommand (noCommand_of_phase hr (by simp [hp]) (by simp [hp])),
    phaseOperation_of_noCause (s := openEdge s) (.inr (.inr (.inl hp))), closed_next]

/-- Settles O22: the edge writes no register, and RESET loads those of power-on whatever the state. -/
theorem fatalIsLeftOnlyByReset : Obligations.FatalIsLeftOnlyByReset := by
  intro s hp
  cases hr : s.now.rst with
  | false => exact ⟨_, step_of_fatal hp hr, fun _ => rfl, nofun⟩
  | true => exact ⟨_, step_of_rst hr, nofun, fun _ => rfl⟩

/-- R35, R200: at most one of the two reasons for leaving SAMPLE stands. -/
theorem not_timeout_and_capHit {s : State} (h : Inv s) : ¬(s.timeout = true ∧ s.capHit = true) := by
  obtain ⟨-, -, -, -, hcap, htimeout, -⟩ := h.flags
  exact fun ⟨ht, hc⟩ => (htimeout ht).ne (hcap hc)

/-- Settles O23, the five points of R200 in order. -/
theorem priorityOfSimultaneousConditions : Obligations.PriorityOfSimultaneousConditions := by
  refine ⟨fun s t hp hr ht h0 h1 h => ?_, fun s t hp hr h => ?_, fun s t hb h => ?_,
    fun s => not_timeout_and_capHit, fun s hr => ⟨_, step_of_rst hr, rfl, rfl⟩⟩
  · cases (step_of_invalid hp hr ht h0 h1).symm.trans h
    exact ⟨rfl, rfl, rfl, rfl⟩
  · cases (step_of_fatal hp hr).symm.trans h
    exact ⟨by simp [hp], rfl, rfl⟩
  · cases h
    exact (statusOf_eq_ite _ _).trans (if_pos hb)

end Sys2Proof.Machine
end

section
/-! Reset and hazards (70_reset_and_hazards.md): a second exchange begins as the first (R221), the wake-up sequence on the line
in order (R230), and the real-time parameters that nothing compares (R238). -/

namespace Sys2Proof.Machine

/-! ### A second exchange (R221) -/

/-- R223: after an exchange the line is released and its output register HIGH, as after RESET. -/
theorem line_of_done {s : State} (h : Inv s) (hp : s.phase = .done) : s.lineOe = .input ∧ s.lineOut = .high := by
  obtain ⟨hoe, hout⟩ := h.line
  constructor
  · cases e : s.lineOe with
    | input => rfl
    | output => simpa [hp] using hoe.1 e
  · cases e : s.lineOut with
    | high => rfl
    | low => simpa [hp] using hout.1 e

/-- R45: where the line is as RESET leaves it, the columns of START and RESET differ in the phase alone. -/
theorem startRegisters_of_line {s : State} (hoe : s.lineOe = .input) (hout : s.lineOut = .high) :
    startRegisters s = setPhase .wDirOut (resetRegisters s) := by
  rw [startRegisters, hoe, hout]
  rfl

/-- Settles O19: the line registers are all that START does not load, and in DONE they are those of RESET. -/
theorem startFromDoneIsStartAfterReset : Obligations.StartFromDoneIsStartAfterReset := by
  intro s h hp
  obtain ⟨hoe, hout⟩ := line_of_done h hp
  exact ⟨resetRegisters s, _, rfl, rfl, rfl, congrArg Host.Outcome.next (startRegisters_of_line hoe hout), rfl⟩

/-! ### The wake-up sequence (R230) -/

/-- After a run of `k` edges the inputs of the edges to come are `k` edges nearer. -/
theorem inputsAt_of_runEdges {k : Nat} {s t : State} (h : runEdges k s = .next t) (j : Nat) :
    t.inputsAt j = s.inputsAt (j + k) := by
  induction k generalizing s with
  | zero => cases h; rfl
  | succ k ih =>
    rw [runEdges_unfold] at h
    cases hs : step s <;> simp only [hs] at h
    case next u => rw [ih h, inputsAt_of_step hs, Nat.add_assoc]
    all_goals cases h

/-- After `k` edges from `s` the block is in phase `p`, under the same configuration, with `v` on the line and the delay
ports. -/
def ShowsAfter (k : Nat) (s : State) (p : Phase) (v : Direction × Level × Option DelayRequest) : Prop :=
  ∃ t, runEdges k s = .next t ∧ t.phase = p ∧ (t.lineOe, t.lineOut, t.dly) = v ∧ t.cfg = s.cfg

theorem ShowsAfter.lineAfter_eq {k : Nat} {s : State} {p : Phase} {v : Direction × Level × Option DelayRequest}
    (h : ShowsAfter k s p v) : lineAfter k s = some v := by
  obtain ⟨t, hrun, -, rfl, -⟩ := h
  simp only [lineAfter, hrun]

section
variable {k : Nat} {s : State} {p q : Phase} {oe : Direction} {out : Level} {d : Option DelayRequest}

/-- One more edge, in a phase that takes no START: what the phase's operation does to the line with no request standing. -/
theorem ShowsAfter.succ {v : Direction × Level × Option DelayRequest} (h : ShowsAfter k s p (oe, out, d))
    (hr : (s.inputsAt k).rst = false) (ha : acceptsStart p = false)
    (hop : ∀ t : State, t.phase = p → t.now = s.inputsAt k → t.cfg = s.cfg → (t.lineOe, t.lineOut, t.dly) = (oe, out, none) →
      ∃ u, phaseOperation t = .next u ∧ u.phase = q ∧ (u.lineOe, u.lineOut, u.dly) = v) :
    ShowsAfter (k + 1) s q v := by
  obtain ⟨t, hrun, hp, hline, hcfg⟩ := h
  obtain ⟨hoe, hout, -⟩ := by simpa only [Prod.mk.injEq] using hline
  have hnow : t.now = s.inputsAt k := by rw [← inputsAt_zero, inputsAt_of_runEdges hrun, Nat.zero_add]
  obtain ⟨u, hu, hq, hv⟩ := hop (openEdge t) hp hnow hcfg (by rw [← hoe, ← hout]; rfl)
  have hn : noCommand t := ⟨hnow ▸ hr, fun _ => hp ▸ ha⟩
  have hstep : step t = .next (closeEdge u) := by rw [step_of_noCommand hn, hu, closed_next]
  refine ⟨closeEdge u, ?_, hq, hv, (phaseOperation_sameModelFields hu).cfg.trans hcfg⟩
  rw [runEdges_add k 1 hrun, runEdges_succ 0 hstep, runEdges_zero]

/-- R101, R103, R105: after a drive the line and the ports show its level and its request. -/
theorem ShowsAfter.drive {l : Level} {u : DelayUnit} {n : Config → Nat} (h : ShowsAfter k s p (oe, out, d))
    (hr : (s.inputsAt k).rst = false) (ha : acceptsStart p = false)
    (hop : ∀ t : State, t.phase = p → phaseOperation t = driveThen l u (n t.cfg) q t) :
    ShowsAfter (k + 1) s q (oe, l, some ⟨u, n s.cfg⟩) :=
  h.succ hr ha fun t hp _ hcfg hline => ⟨_, hop t hp, rfl, by rw [hcfg, (Prod.mk.inj hline).1]⟩

/-- R102, R104, R106: a hold whose delay is answered leaves the line, and the request is gone (log entry 4). -/
theorem ShowsAfter.hold (h : ShowsAfter k s p (oe, out, d)) (hr : (s.inputsAt k).rst = false) (ha : acceptsStart p = false)
    (hop : ∀ t : State, t.phase = p → phaseOperation t = holdThen q t) (hd : (s.inputsAt k).dlyDone = true) :
    ShowsAfter (k + 1) s q (oe, out, none) :=
  h.succ hr ha fun t hp hnow _ hline =>
    ⟨setPhase q t, by rw [hop t hp, holdThen, hnow, if_pos hd], rfl, hline⟩

end

/-- Settles O27: W1, three drives each with its hold, and W8. -/
theorem wakeUpSequenceIsInOrder : Obligations.WakeUpSequenceIsInOrder := by
  intro s hp hout hreset hd2 hd4 hd6
  have h0 : ShowsAfter 0 s .wDirOut (s.lineOe, .high, s.dly) := ⟨s, runEdges_zero s, hp, by rw [hout], rfl⟩
  have h1 : ShowsAfter 1 s .wHigh (.output, .high, none) :=
    h0.succ (hreset 0 (by decide)) rfl fun t hp _ _ hline =>
      ⟨_, phaseOperation_wDirOut hp, rfl, congrArg (Prod.mk _) (Prod.mk.inj hline).2⟩
  have h2 := h1.drive (n := Config.tIdleHigh) (hreset 1 (by decide)) rfl fun _ => phaseOperation_wHigh
  have h3 := h2.hold (hreset 2 (by decide)) rfl (fun _ => phaseOperation_wHighHold) hd2
  have h4 := h3.drive (n := Config.tStartLow) (hreset 3 (by decide)) rfl fun _ => phaseOperation_wLow
  have h5 := h4.hold (hreset 4 (by decide)) rfl (fun _ => phaseOperation_wLowHold) hd4
  have h6 := h5.drive (n := Config.tReleaseHigh) (hreset 5 (by decide)) rfl fun _ => phaseOperation_wRel
  have h7 := h6.hold (hreset 6 (by decide)) rfl (fun _ => phaseOperation_wRelHold) hd6
  have h8 : ShowsAfter 8 s .sample (.input, .high, none) :=
    h7.succ (hreset 7 (by decide)) rfl fun t hp _ _ hline =>
      ⟨_, phaseOperation_wListen hp, rfl, congrArg (Prod.mk _) (Prod.mk.inj hline).2⟩
  have hlast := h8.lineAfter_eq
  obtain ⟨t, hrun, hsample, -⟩ := h8
  exact ⟨h1.lineAfter_eq, h2.lineAfter_eq, h3.lineAfter_eq, h4.lineAfter_eq, h5.lineAfter_eq, h6.lineAfter_eq,
    h7.lineAfter_eq, hlast, t, hrun, hsample⟩

/-! ### Another choice of the real-time parameters (R238) -/

/-- The state under another configuration. -/
abbrev withConfig (c : Config) (s : State) : State := { s with cfg := c }

theorem holdThen_withConfig {p : Phase} {s t : State} (c : Config) (h : holdThen p s = .next t) :
    holdThen p (withConfig c s) = .next (withConfig c t) := by
  cases h
  show Host.Outcome.next (if s.now.dlyDone then setPhase p (withConfig c s) else withConfig c s) = _
  split <;> rfl

/-- R50: the buffer's one parameter is `MAX_OBS`. -/
theorem memRead_withConfig {s : State} {c : Config} (hmax : c.maxObs = s.cfg.maxObs) (i : Nat) :
    memRead (withConfig c s) i = memRead s i := by
  rw [memRead, memRead, hmax]

/-- R114: the parameters a tick compares are `CEIL` and `MAX_OBS`. -/
theorem sampleTick_withConfig {s t : State} {c : Config} (hmax : c.maxObs = s.cfg.maxObs) (hceil : c.ceil = s.cfg.ceil)
    (h : sampleTick s = .next t) : sampleTick (withConfig c s) = .next (withConfig c t) := by
  rcases sampleTick_cases s with ⟨h0, h1, e⟩ | ⟨l, hl, hcases⟩
  · cases e.symm.trans h
    exact sampleTick_of_invalid h0 h1
  rw [sampleTick_of_level (s := withConfig c s) hl]
  rcases hcases with ⟨hv, e⟩ | ⟨hv, hh, hc, e⟩ | ⟨hv, hh, hc, e⟩ | ⟨hv, hh, hx, e⟩ | ⟨hv, hh, hx, hw, e⟩ | ⟨-, -, -, e⟩ <;>
    cases e.symm.trans h
  · simp [hv]
  · simp [hv, hh, hceil, hc]
  · simp [hv, hh, hceil, hc]
  · simp [hv, hh, hmax, hx, recordObservation_of_lt, Nat.lt_of_succ_le hx.le]
  · simp [hv, hh, hmax, hx, recordObservation_of_lt, hw]

theorem decodeStep_withConfig {s t : State} {c : Config} (hmax : c.maxObs = s.cfg.maxObs) (h : decodeStep s = .next t) :
    decodeStep (withConfig c s) = .next (withConfig c t) := by
  rcases decodeStep_cases s with ⟨hend, e⟩ | ⟨hne, d, hd, e⟩ | ⟨-, r, -, e⟩ | ⟨-, r, -, e⟩ <;> cases e.symm.trans h
  · exact decodeStep_of_end (s := withConfig c s) hend
  · exact decodeStep_of_read (s := withConfig c s) hne ((memRead_withConfig hmax _).trans hd)

/-- R101, R103, R105: the hold times stand in a drive's request, and no phase's operation reads them or the tick period
otherwise. -/
theorem phaseOperation_withConfig {s t : State} {c : Config} (hmax : c.maxObs = s.cfg.maxObs) (hceil : c.ceil = s.cfg.ceil)
    (h : phaseOperation s = .next t) : ∃ d, phaseOperation (withConfig c s) = .next { t with dly := d, cfg := c } := by
  unfold phaseOperation at h ⊢
  cases hp : s.phase <;> simp only [hp] at h ⊢
  case sample =>
    refine ⟨t.dly, ?_⟩
    show (if s.now.tick = true then _ else _) = _
    split at h
    · next ht => rw [if_pos ht, sampleTick_withConfig hmax hceil h]
    · next ht => cases h; rw [if_neg ht]
  case decode => exact ⟨t.dly, decodeStep_withConfig hmax h⟩
  case wHighHold | wLowHold | wRelHold => exact ⟨t.dly, holdThen_withConfig c h⟩
  all_goals cases h; exact ⟨_, rfl⟩

/-- Settles O28: RESET and START read no parameter, and the phase's operation none of these four but into a request. -/
theorem realTimeParametersAreNeverCompared : Obligations.RealTimeParametersAreNeverCompared := by
  intro s t c hmax hceil h
  rcases step_cases h with ⟨hr, rfl⟩ | ⟨hr, hs, ha, rfl⟩ | ⟨hn, u, hu, rfl⟩
  · exact ⟨_, step_of_rst (s := withConfig c s) hr⟩
  · exact ⟨_, step_of_start (s := withConfig c s) hr hs ha⟩
  · obtain ⟨d, hd⟩ := phaseOperation_withConfig (s := openEdge s) hmax hceil hu
    refine ⟨d, ?_⟩
    rw [step_of_noCommand (s := withConfig c s) hn]
    exact congrArg closed hd

end Sys2Proof.Machine
end

section
/-! Reading an encoded word gives the operation back (30_encoding.md sections 1 to 3). -/

namespace Sys2Proof

/-- R72: an odd index of at least 3 is of no class but DATA, saturated where the frame is full (R135). -/
theorem decodeObs_of_isData {i : Index} (h : Index.isData i = true) (c : Cond) (d : Byte) :
    decodeObs c i d = if c.frameFull = true then .dataSaturated i d else .data i d := by
  simp only [Index.isData, Bool.and_eq_true, beq_iff_eq] at h
  obtain ⟨hodd, hdata⟩ := h
  have hfirst : 3 ≤ i.toNat := of_decide_eq_true hdata
  have hcal : i.toNat ≠ Config.calIndex := by
    show i.toNat ≠ 2
    omega
  have hskip : i.toNat ≠ 1 := by omega
  rw [decodeObs, if_neg hcal, if_neg hskip, if_pos hodd]

/-- R72: an even index other than 2 is of no class but REF. -/
theorem decodeObs_of_isRef {i : Index} (h : Index.isRef i = true) (c : Cond) (d : Byte) : decodeObs c i d = .ref i d := by
  simp only [Index.isRef, Bool.and_eq_true, beq_iff_eq, bne_iff_ne] at h
  obtain ⟨heven, hcal⟩ := h
  have hskip : i.toNat ≠ 1 := by omega
  have hodd : i.toNat % 2 ≠ 1 := by omega
  rw [decodeObs, if_neg hcal, if_neg hskip, if_neg hodd]

/-- Settles O2, format by format: the well-formed index leaves an observation one class (R72), and the admitted condition tells
the two pairs of rows with one word apart (R76, R134, R135). -/
theorem decodeOfEncodeIsTheInstruction : Obligations.DecodeOfEncodeIsTheInstruction := by
  intro c i hwf hadmits
  cases i
  case reset => exact decode_cmdWord c true false
  case start =>
    have haccepted : c.startAccepted = true := hadmits
    exact (decode_cmdWord c false true).trans (by simp [haccepted])
  case startIgnored =>
    have hignored : c.startAccepted = false := by simpa [Cond.admits] using hadmits
    exact (decode_cmdWord c false true).trans (by simp [hignored])
  case sFatal | sFirst | sSame | sTimeout | sEdge | sCap => exact decode_scWord c _ _ _ _ _
  case cal d => exact decode_obsWord c 2 d
  case skip d => exact decode_obsWord c 1 d
  case data i d =>
    have hopen : ¬ c.frameFull = true := by simpa [Cond.admits] using hadmits
    exact (decode_obsWord c i d).trans (by rw [decodeObs_of_isData hwf, if_neg hopen])
  case dataSaturated i d =>
    have hfull : c.frameFull = true := hadmits
    exact (decode_obsWord c i d).trans (by rw [decodeObs_of_isData hwf, if_pos hfull])
  case ref i d => exact (decode_obsWord c i d).trans (by rw [decodeObs_of_isRef hwf])
  -- The other rows are of format PH, each the phase's own code (R77).
  all_goals exact decode_phWord c _

end Sys2Proof
end

section
/-! What the single operations write: the wake-up steps (40_sampler.md section 1), the ticks within an interval (section 2), and
the observations that append no bit (41_decoder.md section 2). -/

namespace Sys2Proof.Machine

/-- R101, R103, R105: a drive writes the line's level, the request and the phase. -/
theorem driveThen_eq (l : Level) (u : DelayUnit) (n : Nat) (p : Phase) (s : State) :
    driveThen l u n p s = .next { s with lineOut := l, dly := some ⟨u, n⟩, phase := p } := rfl

/-- Settles O25: three drives between the two operations that turn the line. -/
theorem wakeUpDrivesTheLine : Obligations.WakeUpDrivesTheLine := fun s =>
  ⟨rfl, driveThen_eq .high .timeUnit s.cfg.tIdleHigh .wHighHold s, driveThen_eq .low .timeUnit s.cfg.tStartLow .wLowHold s,
    driveThen_eq .high .microTimeUnit s.cfg.tReleaseHigh .wRelHold s, rfl⟩

/-- R102, R104, R106: a hold waits for `dly_done` and writes the phase. -/
theorem holdThen_eq (p : Phase) (s : State) :
    holdThen p s = .next (if s.now.dlyDone = true then { s with phase := p } else s) := rfl

/-- Settles O26: the three holds differ in the phase that follows. -/
theorem holdsWaitForTheDelay : Obligations.HoldsWaitForTheDelay := fun s =>
  ⟨holdThen_eq .wLow s, holdThen_eq .wRel s, holdThen_eq .wListen s⟩

/-- Settles O30: on a sample at a level each of the three goes on with that level. -/
theorem tickOperationsWithinAnInterval : Obligations.TickOperationsWithinAnInterval := fun _ _ hl =>
  ⟨withLevel_of_level _ hl, withLevel_of_level _ hl, withLevel_of_level _ hl⟩

/-- Settles O41: each operation computes to its pseudocode, the advance of `ridx` (R130) last. -/
theorem observationsWithoutABit : Obligations.ObservationsWithoutABit := fun _ _ _ => ⟨rfl, rfl, rfl, rfl, rfl⟩

end Sys2Proof.Machine
end
